-- ==== Sys2Proof/Word.lean ====
section
/-!
DEFINITION. The word types of the core: `00_scope.md` R7 and R8 (XLEN 32, bits numbered from 0), `10_state.md` R21.
Only the types stand here; every field, extension and byte-order helper is in `Decode.lean` and `Machine/`.
-/

namespace Sys2Proof

/-- A 32-bit word: a register, an address, an instruction or a command word (R7). -/
abbrev Word := BitVec 32

/-- A byte of memory (R33 to R35). -/
abbrev Byte := BitVec 8

/-- A 16-bit immediate or half of a word (R121). -/
abbrev Half := BitVec 16

/-- The number of a general register, 0 to 31 (R21). -/
abbrev Reg := BitVec 5

/-- The three widths the Router moves: 1, 2 or 4 bytes (R76). -/
inductive Width where
  | byte
  | half
  | word
  deriving DecidableEq, Repr

/-- The number of bytes of an access (R76). -/
def Width.bytes : Width → Nat
  | .byte => 1
  | .half => 2
  | .word => 4

end Sys2Proof
end

