-- ==== Sys2Proof/Syntax.lean ====
section
/-!
DEFINITION. The instructions of the core: one constructor per row of `spec/opcode_table.json`, in the table's order.
The 61 `cpu` rows are fetched by the CPU (`30_encoding.md` R126); the 13 `gp0` rows are commands handed to GPU
port 0 (`46_gpu_gp0_commands.md` R352) and the 8 `gp1` rows are words handed to GPU port 1
(`47_gpu_gp1_commands.md` R390).  Rows of different spaces are matched against different word streams (R135).
A field an instruction ignores (R132) is no operand; a word that a rule STORES is one, even where nothing reads it.
-/

namespace Sys2Proof

/-- The word stream an instruction belongs to (R135). -/
inductive Space where
  | cpu
  | gp0
  | gp1
  deriving DecidableEq, Repr

/-- One constructor per row of the opcode table.  Operands stand in the assembler's order (R134); the
constructor of the table's `break` is `brk`. -/
inductive Instr where
  -- register ALU, R152 to R161
  | add (rd rs rt : Reg)
  | addu (rd rs rt : Reg)
  | sub (rd rs rt : Reg)
  | subu (rd rs rt : Reg)
  | and (rd rs rt : Reg)
  | or (rd rs rt : Reg)
  | xor (rd rs rt : Reg)
  | nor (rd rs rt : Reg)
  | slt (rd rs rt : Reg)
  | sltu (rd rs rt : Reg)
  -- shifts, R162 to R167
  | sll (rd rt : Reg) (shamt : BitVec 5)
  | srl (rd rt : Reg) (shamt : BitVec 5)
  | sra (rd rt : Reg) (shamt : BitVec 5)
  | sllv (rd rt rs : Reg)
  | srlv (rd rt rs : Reg)
  | srav (rd rt rs : Reg)
  -- immediate ALU, R168 to R175
  | addi (rt rs : Reg) (imm : Half)
  | addiu (rt rs : Reg) (imm : Half)
  | slti (rt rs : Reg) (imm : Half)
  | sltiu (rt rs : Reg) (imm : Half)
  | andi (rt rs : Reg) (imm : Half)
  | ori (rt rs : Reg) (imm : Half)
  | xori (rt rs : Reg) (imm : Half)
  | lui (rt : Reg) (imm : Half)
  -- multiply, divide, hi/lo moves, R201 to R209
  | mult (rs rt : Reg)
  | multu (rs rt : Reg)
  | div (rs rt : Reg)
  | divu (rs rt : Reg)
  | mfhi (rd : Reg)
  | mthi (rs : Reg)
  | mflo (rd : Reg)
  | mtlo (rs : Reg)
  -- jumps, R225 to R228
  | j (target : BitVec 26)
  | jal (target : BitVec 26)
  | jr (rs : Reg)
  | jalr (rd rs : Reg)
  -- branches, R229 to R236
  | beq (rs rt : Reg) (offset : Half)
  | bne (rs rt : Reg) (offset : Half)
  | blez (rs : Reg) (offset : Half)
  | bgtz (rs : Reg) (offset : Half)
  | bltz (rs : Reg) (offset : Half)
  | bgez (rs : Reg) (offset : Half)
  | bltzal (rs : Reg) (offset : Half)
  | bgezal (rs : Reg) (offset : Half)
  -- loads and stores, R253 to R264
  | lb (rt rs : Reg) (imm : Half)
  | lbu (rt rs : Reg) (imm : Half)
  | lh (rt rs : Reg) (imm : Half)
  | lhu (rt rs : Reg) (imm : Half)
  | lw (rt rs : Reg) (imm : Half)
  | sb (rt rs : Reg) (imm : Half)
  | sh (rt rs : Reg) (imm : Half)
  | sw (rt rs : Reg) (imm : Half)
  | lwl (rt rs : Reg) (imm : Half)
  | lwr (rt rs : Reg) (imm : Half)
  | swl (rt rs : Reg) (imm : Half)
  | swr (rt rs : Reg) (imm : Half)
  -- system and coprocessor 0, R282 to R287
  | syscall
  | brk
  | mfc0 (rt rd : Reg)
  | mtc0 (rt rd : Reg)
  | rfe
  -- GPU port 0 commands, R358 to R374
  | gp0Nop
  | gp0CacheFlushStub
  | gp0Interrupt
  /-- GP0 0x28 (R371): the colour of word 0, then the four vertex words. -/
  | gp0MonoQuad (colour : BitVec 24) (v0 v1 v2 v3 : Word)
  /-- GP0 0x30 (R372): three colour and vertex pairs; a later colour word's top byte is ignored but buffered. -/
  | gp0ShadedTriangle (c0 : BitVec 24) (v0 c1 v1 c2 v2 : Word)
  /-- GP0 0x38 (R373): four colour and vertex pairs. -/
  | gp0ShadedQuad (c0 : BitVec 24) (v0 c1 v1 c2 v2 c3 v3 : Word)
  /-- GP0 0xA0 (R374): destination and size words; the low 24 bits of word 0 are ignored but buffered. -/
  | gp0ImageLoad (low : BitVec 24) (dest size : Word)
  | gp0DrawMode (status : BitVec 11) (textureDisable flipX flipY : Bool)
  | gp0TextureWindow (maskX maskY offX offY : BitVec 5)
  | gp0DrawAreaTopLeft (left top : BitVec 10)
  | gp0DrawAreaBottomRight (right bottom : BitVec 10)
  /-- GP0 0xE5 (R365): "each kept as a signed value in [-1024, 1023]". -/
  | gp0DrawOffset (x y : Int)
  | gp0MaskBits (setMask checkMask : Bool)
  -- GPU port 1 commands, R392 to R399
  | gp1SoftReset
  | gp1InterruptAcknowledge
  | gp1DisplayEnable (off : Bool)
  | gp1DmaDirection (direction : BitVec 2)
  | gp1DisplayOrigin (x : BitVec 10) (y : BitVec 9)
  | gp1HorizontalRange (start stop : BitVec 12)
  | gp1VerticalRange (start stop : BitVec 10)
  | gp1DisplayMode (hres1 : BitVec 2) (vres pal depth24 interlace hres2 reverse : Bool)
  deriving DecidableEq, Repr

end Sys2Proof
end

