-- ==== Sys2Proof/WellFormed.lean ====
section
/-!
DEFINITION. Which instructions have a word.  Every operand that is a field of a word has the field's own width as
its type, so it needs no check; the drawing offset of GP0 0xE5 is a signed number, and R365 gives its range.
-/

namespace Sys2Proof

/-- R365: a drawing offset is "a signed value in [-1024, 1023]". -/
def drawOffsetInRange (v : Int) : Bool := decide (-1024 ≤ v ∧ v ≤ 1023)

/-- An instruction is well formed when each operand fits the field that holds it. -/
def Instr.wellFormed : Instr → Bool
  | .gp0DrawOffset x y => drawOffsetInRange x && drawOffsetInRange y
  | _ => true

end Sys2Proof
end

