-- ==== Sys2Proof/Decode.lean ====
section
/-!
DEFINITION. Decoding, total on any words and bytes, and the encoder written from the same maps.
CPU words: `30_encoding.md` R120 to R133.  GP0 commands: `46_gpu_gp0_commands.md` R352 and R361 to R374.
GP1 words: `47_gpu_gp1_commands.md` R390 to R399.  The three streams are never compared with each other (R135).
-/

namespace Sys2Proof

/-! ## Fields of a word (R121) -/

def opField (w : Word) : BitVec 6 := w.extractLsb' 26 6
def rsField (w : Word) : Reg := w.extractLsb' 21 5
def rtField (w : Word) : Reg := w.extractLsb' 16 5
def rdField (w : Word) : Reg := w.extractLsb' 11 5
def shamtField (w : Word) : BitVec 5 := w.extractLsb' 6 5
def functField (w : Word) : BitVec 6 := w.extractLsb' 0 6
def immField (w : Word) : Half := w.extractLsb' 0 16
def targetField (w : Word) : BitVec 26 := w.extractLsb' 0 26

/-- The opcode of a GP0 word, `w[31:24]` (R352). -/
def gp0Op (w : Word) : BitVec 8 := w.extractLsb' 24 8

/-- The low 24 bits of a GP0 word: the colour of a draw command, the payload of a setter (R353, R370). -/
def low24 (w : Word) : BitVec 24 := w.extractLsb' 0 24

/-- The opcode of a GP1 word, `w[29:24]`: "matched modulo 64" (R390). -/
def gp1Op (w : Word) : BitVec 6 := w.extractLsb' 24 6

/-! ## Decoding -/

/-- Why a word or a stream is no instruction.  Safe: nothing is decoded, so nothing is claimed. -/
inductive DecodeError where
  /-- A CPU word selected by no row of the opcode maps (R131). -/
  | unknownInstruction (w : Word)
  /-- A word whose top byte is no GP0 opcode (R368). -/
  | unknownGp0 (w : Word)
  /-- A word whose bits 29:24 are no GP1 opcode (R400). -/
  | unknownGp1 (w : Word)
  /-- The stream ends inside the instruction or before it; `got` words or bytes are there. -/
  | truncated (got : Nat)
  deriving DecidableEq, Repr

/-- The SPECIAL map, op = 0, keyed by `funct` (R128). -/
def decodeSpecial (w : Word) : Option Instr :=
  match (functField w).toNat with
  | 0x00 => some (.sll (rdField w) (rtField w) (shamtField w))
  | 0x02 => some (.srl (rdField w) (rtField w) (shamtField w))
  | 0x03 => some (.sra (rdField w) (rtField w) (shamtField w))
  | 0x04 => some (.sllv (rdField w) (rtField w) (rsField w))
  | 0x06 => some (.srlv (rdField w) (rtField w) (rsField w))
  | 0x07 => some (.srav (rdField w) (rtField w) (rsField w))
  | 0x08 => some (.jr (rsField w))
  | 0x09 => some (.jalr (rdField w) (rsField w))
  | 0x0C => some .syscall
  | 0x0D => some .brk
  | 0x10 => some (.mfhi (rdField w))
  | 0x11 => some (.mthi (rsField w))
  | 0x12 => some (.mflo (rdField w))
  | 0x13 => some (.mtlo (rsField w))
  | 0x18 => some (.mult (rsField w) (rtField w))
  | 0x19 => some (.multu (rsField w) (rtField w))
  | 0x1A => some (.div (rsField w) (rtField w))
  | 0x1B => some (.divu (rsField w) (rtField w))
  | 0x20 => some (.add (rdField w) (rsField w) (rtField w))
  | 0x21 => some (.addu (rdField w) (rsField w) (rtField w))
  | 0x22 => some (.sub (rdField w) (rsField w) (rtField w))
  | 0x23 => some (.subu (rdField w) (rsField w) (rtField w))
  | 0x24 => some (.and (rdField w) (rsField w) (rtField w))
  | 0x25 => some (.or (rdField w) (rsField w) (rtField w))
  | 0x26 => some (.xor (rdField w) (rsField w) (rtField w))
  | 0x27 => some (.nor (rdField w) (rsField w) (rtField w))
  | 0x2A => some (.slt (rdField w) (rsField w) (rtField w))
  | 0x2B => some (.sltu (rdField w) (rsField w) (rtField w))
  | _ => none

/-- The REGIMM map, op = 1, keyed by `rt` (R129). -/
def decodeRegimm (w : Word) : Option Instr :=
  match (rtField w).toNat with
  | 0 => some (.bltz (rsField w) (immField w))
  | 1 => some (.bgez (rsField w) (immField w))
  | 16 => some (.bltzal (rsField w) (immField w))
  | 17 => some (.bgezal (rsField w) (immField w))
  | _ => none

/-- The COP0 map, op = 16, keyed by `rs`, and for rs = 16 by `funct` (R130). -/
def decodeCop0 (w : Word) : Option Instr :=
  match (rsField w).toNat with
  | 0 => some (.mfc0 (rtField w) (rdField w))
  | 4 => some (.mtc0 (rtField w) (rdField w))
  | 16 => if (functField w).toNat = 0x10 then some .rfe else none
  | _ => none

/-- The primary map, keyed by `op` (R127, R133). -/
def decodePrimary (w : Word) : Option Instr :=
  match (opField w).toNat with
  | 0x00 => decodeSpecial w
  | 0x01 => decodeRegimm w
  | 0x02 => some (.j (targetField w))
  | 0x03 => some (.jal (targetField w))
  | 0x04 => some (.beq (rsField w) (rtField w) (immField w))
  | 0x05 => some (.bne (rsField w) (rtField w) (immField w))
  | 0x06 => some (.blez (rsField w) (immField w))
  | 0x07 => some (.bgtz (rsField w) (immField w))
  | 0x08 => some (.addi (rtField w) (rsField w) (immField w))
  | 0x09 => some (.addiu (rtField w) (rsField w) (immField w))
  | 0x0A => some (.slti (rtField w) (rsField w) (immField w))
  | 0x0B => some (.sltiu (rtField w) (rsField w) (immField w))
  | 0x0C => some (.andi (rtField w) (rsField w) (immField w))
  | 0x0D => some (.ori (rtField w) (rsField w) (immField w))
  | 0x0E => some (.xori (rtField w) (rsField w) (immField w))
  | 0x0F => some (.lui (rtField w) (immField w))
  | 0x10 => decodeCop0 w
  | 0x20 => some (.lb (rtField w) (rsField w) (immField w))
  | 0x21 => some (.lh (rtField w) (rsField w) (immField w))
  | 0x22 => some (.lwl (rtField w) (rsField w) (immField w))
  | 0x23 => some (.lw (rtField w) (rsField w) (immField w))
  | 0x24 => some (.lbu (rtField w) (rsField w) (immField w))
  | 0x25 => some (.lhu (rtField w) (rsField w) (immField w))
  | 0x26 => some (.lwr (rtField w) (rsField w) (immField w))
  | 0x28 => some (.sb (rtField w) (rsField w) (immField w))
  | 0x29 => some (.sh (rtField w) (rsField w) (immField w))
  | 0x2A => some (.swl (rtField w) (rsField w) (immField w))
  | 0x2B => some (.sw (rtField w) (rsField w) (immField w))
  | 0x2E => some (.swr (rtField w) (rsField w) (immField w))
  | _ => none

/-- The CPU's decoder: total on every 32-bit word (R133), rejecting by name (R131). -/
def decodeCpu (w : Word) : Except DecodeError Instr :=
  match decodePrimary w with
  | some i => .ok i
  | none => .error (.unknownInstruction w)

/-- The GP0 stream, read from the Idle state: the first word's top byte selects the command (R352), and a
multi-word command takes as many words as `GP0_LEN` says (R367).  The rest of the stream is returned. -/
def decodeGp0 : List Word → Except DecodeError (Instr × List Word)
  | [] => .error (.truncated 0)
  | w :: ws =>
    match (gp0Op w).toNat with
    | 0x00 => .ok (.gp0Nop, ws)
    | 0x01 => .ok (.gp0CacheFlushStub, ws)
    | 0x1F => .ok (.gp0Interrupt, ws)
    | 0x28 =>
      match ws with
      | v0 :: v1 :: v2 :: v3 :: rest => .ok (.gp0MonoQuad (low24 w) v0 v1 v2 v3, rest)
      | _ => .error (.truncated (ws.length + 1))
    | 0x30 =>
      match ws with
      | v0 :: c1 :: v1 :: c2 :: v2 :: rest => .ok (.gp0ShadedTriangle (low24 w) v0 c1 v1 c2 v2, rest)
      | _ => .error (.truncated (ws.length + 1))
    | 0x38 =>
      match ws with
      | v0 :: c1 :: v1 :: c2 :: v2 :: c3 :: v3 :: rest =>
        .ok (.gp0ShadedQuad (low24 w) v0 c1 v1 c2 v2 c3 v3, rest)
      | _ => .error (.truncated (ws.length + 1))
    | 0xA0 =>
      match ws with
      | dest :: size :: rest => .ok (.gp0ImageLoad (low24 w) dest size, rest)
      | _ => .error (.truncated (ws.length + 1))
    | 0xE1 => .ok (.gp0DrawMode (w.extractLsb' 0 11) (w.getLsbD 11) (w.getLsbD 12) (w.getLsbD 13), ws)
    | 0xE2 =>
      .ok (.gp0TextureWindow (w.extractLsb' 0 5) (w.extractLsb' 5 5) (w.extractLsb' 10 5)
        (w.extractLsb' 15 5), ws)
    | 0xE3 => .ok (.gp0DrawAreaTopLeft (w.extractLsb' 0 10) (w.extractLsb' 10 10), ws)
    | 0xE4 => .ok (.gp0DrawAreaBottomRight (w.extractLsb' 0 10) (w.extractLsb' 10 10), ws)
    | 0xE5 => .ok (.gp0DrawOffset (w.extractLsb' 0 11).toInt (w.extractLsb' 11 11).toInt, ws)
    | 0xE6 => .ok (.gp0MaskBits (w.getLsbD 0) (w.getLsbD 1), ws)
    | _ => .error (.unknownGp0 w)

/-- A GP1 word: `w[29:24]` selects the command, bits 31:30 are ignored (R390). -/
def decodeGp1 (w : Word) : Except DecodeError Instr :=
  match (gp1Op w).toNat with
  | 0 => .ok .gp1SoftReset
  | 2 => .ok .gp1InterruptAcknowledge
  | 3 => .ok (.gp1DisplayEnable (w.getLsbD 0))
  | 4 => .ok (.gp1DmaDirection (w.extractLsb' 0 2))
  | 5 => .ok (.gp1DisplayOrigin (w.extractLsb' 0 10) (w.extractLsb' 10 9))
  | 6 => .ok (.gp1HorizontalRange (w.extractLsb' 0 12) (w.extractLsb' 12 12))
  | 7 => .ok (.gp1VerticalRange (w.extractLsb' 0 10) (w.extractLsb' 10 10))
  | 8 =>
    .ok (.gp1DisplayMode (w.extractLsb' 0 2) (w.getLsbD 2) (w.getLsbD 3) (w.getLsbD 4) (w.getLsbD 5)
      (w.getLsbD 6) (w.getLsbD 7))
  | _ => .error (.unknownGp1 w)

/-- The decoder of each of the three word streams (R135). -/
def decode : Space → List Word → Except DecodeError (Instr × List Word)
  | .cpu, [] => .error (.truncated 0)
  | .cpu, w :: rest =>
    match decodeCpu w with
    | .ok i => .ok (i, rest)
    | .error e => .error e
  | .gp0, ws => decodeGp0 ws
  | .gp1, [] => .error (.truncated 0)
  | .gp1, w :: rest =>
    match decodeGp1 w with
    | .ok i => .ok (i, rest)
    | .error e => .error e

/-- The little-endian word of four bytes, the first at the lowest address (R75, R120). -/
def wordOfBytes (b0 b1 b2 b3 : Byte) : Word := b3 ++ b2 ++ b1 ++ b0

/-- The CPU's decoder on bytes as they lie in memory. -/
def decodeBytes : List Byte → Except DecodeError (Instr × List Byte)
  | b0 :: b1 :: b2 :: b3 :: rest =>
    match decodeCpu (wordOfBytes b0 b1 b2 b3) with
    | .ok i => .ok (i, rest)
    | .error e => .error e
  | bs => .error (.truncated bs.length)

/-! ## Encoding -/

/-- The R format (R122). -/
def rWord (op : BitVec 6) (rs rt rd shamt : BitVec 5) (funct : BitVec 6) : Word :=
  op ++ rs ++ rt ++ rd ++ shamt ++ funct

/-- The I format (R123). -/
def iWord (op : BitVec 6) (rs rt : BitVec 5) (imm : Half) : Word := op ++ rs ++ rt ++ imm

/-- The J format (R124). -/
def jWord (op : BitVec 6) (target : BitVec 26) : Word := op ++ target

/-- A GP0 or GP1 word: the opcode byte above a 24-bit payload (R352, R390). -/
def gpuWord (op : BitVec 8) (payload : BitVec 24) : Word := op ++ payload

/-- A one-bit field. -/
def bit (b : Bool) : BitVec 1 := BitVec.ofBool b

/-- The words of an instruction, one for each `cpu` and `gp1` row and `GP0_LEN` of them for a `gp0` row (R367).
An ignored field is encoded as 0. -/
def encode : Instr → List Word
  | .add rd rs rt => [rWord 0x00 rs rt rd 0 0x20]
  | .addu rd rs rt => [rWord 0x00 rs rt rd 0 0x21]
  | .sub rd rs rt => [rWord 0x00 rs rt rd 0 0x22]
  | .subu rd rs rt => [rWord 0x00 rs rt rd 0 0x23]
  | .and rd rs rt => [rWord 0x00 rs rt rd 0 0x24]
  | .or rd rs rt => [rWord 0x00 rs rt rd 0 0x25]
  | .xor rd rs rt => [rWord 0x00 rs rt rd 0 0x26]
  | .nor rd rs rt => [rWord 0x00 rs rt rd 0 0x27]
  | .slt rd rs rt => [rWord 0x00 rs rt rd 0 0x2A]
  | .sltu rd rs rt => [rWord 0x00 rs rt rd 0 0x2B]
  | .sll rd rt shamt => [rWord 0x00 0 rt rd shamt 0x00]
  | .srl rd rt shamt => [rWord 0x00 0 rt rd shamt 0x02]
  | .sra rd rt shamt => [rWord 0x00 0 rt rd shamt 0x03]
  | .sllv rd rt rs => [rWord 0x00 rs rt rd 0 0x04]
  | .srlv rd rt rs => [rWord 0x00 rs rt rd 0 0x06]
  | .srav rd rt rs => [rWord 0x00 rs rt rd 0 0x07]
  | .addi rt rs imm => [iWord 0x08 rs rt imm]
  | .addiu rt rs imm => [iWord 0x09 rs rt imm]
  | .slti rt rs imm => [iWord 0x0A rs rt imm]
  | .sltiu rt rs imm => [iWord 0x0B rs rt imm]
  | .andi rt rs imm => [iWord 0x0C rs rt imm]
  | .ori rt rs imm => [iWord 0x0D rs rt imm]
  | .xori rt rs imm => [iWord 0x0E rs rt imm]
  | .lui rt imm => [iWord 0x0F 0 rt imm]
  | .mult rs rt => [rWord 0x00 rs rt 0 0 0x18]
  | .multu rs rt => [rWord 0x00 rs rt 0 0 0x19]
  | .div rs rt => [rWord 0x00 rs rt 0 0 0x1A]
  | .divu rs rt => [rWord 0x00 rs rt 0 0 0x1B]
  | .mfhi rd => [rWord 0x00 0 0 rd 0 0x10]
  | .mthi rs => [rWord 0x00 rs 0 0 0 0x11]
  | .mflo rd => [rWord 0x00 0 0 rd 0 0x12]
  | .mtlo rs => [rWord 0x00 rs 0 0 0 0x13]
  | .j target => [jWord 0x02 target]
  | .jal target => [jWord 0x03 target]
  | .jr rs => [rWord 0x00 rs 0 0 0 0x08]
  | .jalr rd rs => [rWord 0x00 rs 0 rd 0 0x09]
  | .beq rs rt offset => [iWord 0x04 rs rt offset]
  | .bne rs rt offset => [iWord 0x05 rs rt offset]
  | .blez rs offset => [iWord 0x06 rs 0 offset]
  | .bgtz rs offset => [iWord 0x07 rs 0 offset]
  | .bltz rs offset => [iWord 0x01 rs 0 offset]
  | .bgez rs offset => [iWord 0x01 rs 1 offset]
  | .bltzal rs offset => [iWord 0x01 rs 16 offset]
  | .bgezal rs offset => [iWord 0x01 rs 17 offset]
  | .lb rt rs imm => [iWord 0x20 rs rt imm]
  | .lbu rt rs imm => [iWord 0x24 rs rt imm]
  | .lh rt rs imm => [iWord 0x21 rs rt imm]
  | .lhu rt rs imm => [iWord 0x25 rs rt imm]
  | .lw rt rs imm => [iWord 0x23 rs rt imm]
  | .sb rt rs imm => [iWord 0x28 rs rt imm]
  | .sh rt rs imm => [iWord 0x29 rs rt imm]
  | .sw rt rs imm => [iWord 0x2B rs rt imm]
  | .lwl rt rs imm => [iWord 0x22 rs rt imm]
  | .lwr rt rs imm => [iWord 0x26 rs rt imm]
  | .swl rt rs imm => [iWord 0x2A rs rt imm]
  | .swr rt rs imm => [iWord 0x2E rs rt imm]
  | .syscall => [rWord 0x00 0 0 0 0 0x0C]
  | .brk => [rWord 0x00 0 0 0 0 0x0D]
  | .mfc0 rt rd => [rWord 0x10 0 rt rd 0 0]
  | .mtc0 rt rd => [rWord 0x10 4 rt rd 0 0]
  | .rfe => [rWord 0x10 16 0 0 0 0x10]
  | .gp0Nop => [gpuWord 0x00 0]
  | .gp0CacheFlushStub => [gpuWord 0x01 0]
  | .gp0Interrupt => [gpuWord 0x1F 0]
  | .gp0MonoQuad colour v0 v1 v2 v3 => [gpuWord 0x28 colour, v0, v1, v2, v3]
  | .gp0ShadedTriangle c0 v0 c1 v1 c2 v2 => [gpuWord 0x30 c0, v0, c1, v1, c2, v2]
  | .gp0ShadedQuad c0 v0 c1 v1 c2 v2 c3 v3 => [gpuWord 0x38 c0, v0, c1, v1, c2, v2, c3, v3]
  | .gp0ImageLoad low dest size => [gpuWord 0xA0 low, dest, size]
  | .gp0DrawMode status textureDisable flipX flipY =>
    [gpuWord 0xE1 ((0 : BitVec 10) ++ bit flipY ++ bit flipX ++ bit textureDisable ++ status)]
  | .gp0TextureWindow maskX maskY offX offY =>
    [gpuWord 0xE2 ((0 : BitVec 4) ++ offY ++ offX ++ maskY ++ maskX)]
  | .gp0DrawAreaTopLeft left top => [gpuWord 0xE3 ((0 : BitVec 4) ++ top ++ left)]
  | .gp0DrawAreaBottomRight right bottom => [gpuWord 0xE4 ((0 : BitVec 4) ++ bottom ++ right)]
  | .gp0DrawOffset x y => [gpuWord 0xE5 ((0 : BitVec 2) ++ BitVec.ofInt 11 y ++ BitVec.ofInt 11 x)]
  | .gp0MaskBits setMask checkMask => [gpuWord 0xE6 ((0 : BitVec 22) ++ bit checkMask ++ bit setMask)]
  | .gp1SoftReset => [gpuWord 0x00 0]
  | .gp1InterruptAcknowledge => [gpuWord 0x02 0]
  | .gp1DisplayEnable off => [gpuWord 0x03 ((0 : BitVec 23) ++ bit off)]
  | .gp1DmaDirection direction => [gpuWord 0x04 ((0 : BitVec 22) ++ direction)]
  | .gp1DisplayOrigin x y => [gpuWord 0x05 ((0 : BitVec 5) ++ y ++ x)]
  | .gp1HorizontalRange start stop => [gpuWord 0x06 (stop ++ start)]
  | .gp1VerticalRange start stop => [gpuWord 0x07 ((0 : BitVec 4) ++ stop ++ start)]
  | .gp1DisplayMode hres1 vres pal depth24 interlace hres2 reverse =>
    [gpuWord 0x08 ((0 : BitVec 16) ++ bit reverse ++ bit hres2 ++ bit interlace ++ bit depth24
      ++ bit pal ++ bit vres ++ hres1)]

/-- The stream an instruction is matched against (R135). -/
def Instr.space : Instr → Space
  | .gp0Nop | .gp0CacheFlushStub | .gp0Interrupt | .gp0MonoQuad .. | .gp0ShadedTriangle ..
  | .gp0ShadedQuad .. | .gp0ImageLoad .. | .gp0DrawMode .. | .gp0TextureWindow .. | .gp0DrawAreaTopLeft ..
  | .gp0DrawAreaBottomRight .. | .gp0DrawOffset .. | .gp0MaskBits .. => .gp0
  | .gp1SoftReset | .gp1InterruptAcknowledge | .gp1DisplayEnable _ | .gp1DmaDirection _
  | .gp1DisplayOrigin .. | .gp1HorizontalRange .. | .gp1VerticalRange .. | .gp1DisplayMode .. => .gp1
  | .add .. | .addu .. | .sub .. | .subu .. | .and .. | .or .. | .xor .. | .nor .. | .slt .. | .sltu ..
  | .sll .. | .srl .. | .sra .. | .sllv .. | .srlv .. | .srav ..
  | .addi .. | .addiu .. | .slti .. | .sltiu .. | .andi .. | .ori .. | .xori .. | .lui ..
  | .mult .. | .multu .. | .div .. | .divu .. | .mfhi _ | .mthi _ | .mflo _ | .mtlo _
  | .j _ | .jal _ | .jr _ | .jalr ..
  | .beq .. | .bne .. | .blez .. | .bgtz .. | .bltz .. | .bgez .. | .bltzal .. | .bgezal ..
  | .lb .. | .lbu .. | .lh .. | .lhu .. | .lw .. | .sb .. | .sh .. | .sw ..
  | .lwl .. | .lwr .. | .swl .. | .swr ..
  | .syscall | .brk | .mfc0 .. | .mtc0 .. | .rfe => .cpu

/-! ## The opcode table's own columns (R135) -/

/-- The `match` column of an instruction's row. -/
def Instr.tableMatch : Instr → Word
  | .add .. => 0x00000020
  | .addu .. => 0x00000021
  | .sub .. => 0x00000022
  | .subu .. => 0x00000023
  | .and .. => 0x00000024
  | .or .. => 0x00000025
  | .xor .. => 0x00000026
  | .nor .. => 0x00000027
  | .slt .. => 0x0000002A
  | .sltu .. => 0x0000002B
  | .sll .. => 0x00000000
  | .srl .. => 0x00000002
  | .sra .. => 0x00000003
  | .sllv .. => 0x00000004
  | .srlv .. => 0x00000006
  | .srav .. => 0x00000007
  | .addi .. => 0x20000000
  | .addiu .. => 0x24000000
  | .slti .. => 0x28000000
  | .sltiu .. => 0x2C000000
  | .andi .. => 0x30000000
  | .ori .. => 0x34000000
  | .xori .. => 0x38000000
  | .lui .. => 0x3C000000
  | .mult .. => 0x00000018
  | .multu .. => 0x00000019
  | .div .. => 0x0000001A
  | .divu .. => 0x0000001B
  | .mfhi _ => 0x00000010
  | .mthi _ => 0x00000011
  | .mflo _ => 0x00000012
  | .mtlo _ => 0x00000013
  | .j _ => 0x08000000
  | .jal _ => 0x0C000000
  | .jr _ => 0x00000008
  | .jalr .. => 0x00000009
  | .beq .. => 0x10000000
  | .bne .. => 0x14000000
  | .blez .. => 0x18000000
  | .bgtz .. => 0x1C000000
  | .bltz .. => 0x04000000
  | .bgez .. => 0x04010000
  | .bltzal .. => 0x04100000
  | .bgezal .. => 0x04110000
  | .lb .. => 0x80000000
  | .lbu .. => 0x90000000
  | .lh .. => 0x84000000
  | .lhu .. => 0x94000000
  | .lw .. => 0x8C000000
  | .sb .. => 0xA0000000
  | .sh .. => 0xA4000000
  | .sw .. => 0xAC000000
  | .lwl .. => 0x88000000
  | .lwr .. => 0x98000000
  | .swl .. => 0xA8000000
  | .swr .. => 0xB8000000
  | .syscall => 0x0000000C
  | .brk => 0x0000000D
  | .mfc0 .. => 0x40000000
  | .mtc0 .. => 0x40800000
  | .rfe => 0x42000010
  | .gp0Nop => 0x00000000
  | .gp0CacheFlushStub => 0x01000000
  | .gp0Interrupt => 0x1F000000
  | .gp0MonoQuad .. => 0x28000000
  | .gp0ShadedTriangle .. => 0x30000000
  | .gp0ShadedQuad .. => 0x38000000
  | .gp0ImageLoad .. => 0xA0000000
  | .gp0DrawMode .. => 0xE1000000
  | .gp0TextureWindow .. => 0xE2000000
  | .gp0DrawAreaTopLeft .. => 0xE3000000
  | .gp0DrawAreaBottomRight .. => 0xE4000000
  | .gp0DrawOffset .. => 0xE5000000
  | .gp0MaskBits .. => 0xE6000000
  | .gp1SoftReset => 0x00000000
  | .gp1InterruptAcknowledge => 0x02000000
  | .gp1DisplayEnable _ => 0x03000000
  | .gp1DmaDirection _ => 0x04000000
  | .gp1DisplayOrigin .. => 0x05000000
  | .gp1HorizontalRange .. => 0x06000000
  | .gp1VerticalRange .. => 0x07000000
  | .gp1DisplayMode .. => 0x08000000

/-- The `mask` column of an instruction's row: "the mask of its key bits only" (R132). -/
def Instr.tableMask : Instr → Word
  | .add .. | .addu .. | .sub .. | .subu .. | .and .. | .or .. | .xor .. | .nor .. | .slt .. | .sltu ..
  | .sll .. | .srl .. | .sra .. | .sllv .. | .srlv .. | .srav .. | .mult .. | .multu .. | .div ..
  | .divu .. | .mfhi _ | .mthi _ | .mflo _ | .mtlo _ | .jr _ | .jalr .. | .syscall | .brk => 0xFC00003F
  | .addi .. | .addiu .. | .slti .. | .sltiu .. | .andi .. | .ori .. | .xori .. | .lui .. | .j _
  | .jal _ | .beq .. | .bne .. | .blez .. | .bgtz .. | .lb .. | .lbu .. | .lh .. | .lhu .. | .lw ..
  | .sb .. | .sh .. | .sw .. | .lwl .. | .lwr .. | .swl .. | .swr .. => 0xFC000000
  | .bltz .. | .bgez .. | .bltzal .. | .bgezal .. => 0xFC1F0000
  | .mfc0 .. | .mtc0 .. => 0xFFE00000
  | .rfe => 0xFFE0003F
  | .gp0Nop | .gp0CacheFlushStub | .gp0Interrupt | .gp0MonoQuad .. | .gp0ShadedTriangle ..
  | .gp0ShadedQuad .. | .gp0ImageLoad .. | .gp0DrawMode .. | .gp0TextureWindow ..
  | .gp0DrawAreaTopLeft .. | .gp0DrawAreaBottomRight .. | .gp0DrawOffset .. | .gp0MaskBits .. => 0xFF000000
  | .gp1SoftReset | .gp1InterruptAcknowledge | .gp1DisplayEnable _ | .gp1DmaDirection _
  | .gp1DisplayOrigin .. | .gp1HorizontalRange .. | .gp1VerticalRange .. | .gp1DisplayMode .. => 0x3F000000

/-! ## Words numbered as the opcode table numbers them -/

/-- The words of an instruction whose bits are `w`: word k is bits 32k+31..32k, and the bits above `nbits` are 0.
Eight words, the longest GP0 command (R367). -/
def tableWords (nbits w : Nat) : List Word :=
  let v := w % 2 ^ nbits
  [BitVec.ofNat 32 v, BitVec.ofNat 32 (v / 2 ^ 32), BitVec.ofNat 32 (v / 2 ^ 64), BitVec.ofNat 32 (v / 2 ^ 96),
    BitVec.ofNat 32 (v / 2 ^ 128), BitVec.ofNat 32 (v / 2 ^ 160), BitVec.ofNat 32 (v / 2 ^ 192),
    BitVec.ofNat 32 (v / 2 ^ 224)]

/-- Which stream a table row's bits are read in where nothing says which.  More bits than one word holds are a GP0
command, the only instructions of several words (R352).  One word is the CPU's if it is a CPU instruction, else GPU
port 0's if it opens a GP0 command, else GPU port 1's.  The table's three spaces overlap (R135), so this is a
convention of this model (notes/assumptions/13.md). -/
def tableSpace (nbits w : Nat) : Space :=
  if 32 < nbits then .gp0
  else
    match decode .cpu (tableWords nbits w) with
    | .ok _ => .cpu
    | .error _ =>
      match decode .gp0 (tableWords nbits w) with
      | .ok _ => .gp0
      | .error _ =>
        match decode .gp1 (tableWords nbits w) with
        | .ok _ => .gp1
        | .error _ => .cpu

/-- The instruction the decoder reads from an instruction whose bits are `w`. -/
def decodeTableWord (nbits w : Nat) : Option Instr :=
  match decode (tableSpace nbits w) (tableWords nbits w) with
  | .ok (i, _) => some i
  | .error _ => none

end Sys2Proof
end

