-- ==== Sys2Proof/Config.lean ====
section
/-!
DEFINITION. The parameters of the hardware, `00_scope.md` R7: what one machine fixes for good.
Every row of R7 marked OPEN is a field whose default is the value the spec's own vectors use.
`State` carries one `Config` and no step changes it, so a statement about every state speaks of every value of
every OPEN parameter.  R7's "fixed" and "decided" rows are constants of the operations that use them.
-/

namespace Sys2Proof

/-- A physical address range: `base ≤ p < base + size` (R73). -/
structure Region where
  base : Nat
  size : Nat
  deriving DecidableEq, Repr

/-- R7 `OVF_MODE` (D11): what signed overflow of `add`, `addi`, `sub` does after the register write. -/
inductive OvfMode where
  | exception
  | fatal
  deriving DecidableEq, Repr

/-- R7 `CAUSE_WRITE_ZERO` (D44): whether an `mtc0` of zero to `cause` is tolerated or stored. -/
inductive CauseWriteZero where
  | ignore
  | clear
  deriving DecidableEq, Repr

/-- R7 `GP0_1F_EFFECT` (D36): what GP0 0x1F does to the GPU interrupt flag. -/
inductive Gp0IrqEffect where
  | clear
  | set
  deriving DecidableEq, Repr

/-- The OPEN parameters of R7, each with the default R7 prints.  The firmware image (`BIOS_IMAGE`) is not here:
its bytes are the state's `bios` memory (R35). -/
structure Config where
  /-- `RAM_WINDOW`, the range decoded as main memory (D18). -/
  ramWindow : Region := ⟨0x00000000, 0x00800000⟩
  /-- `EXP1_BASE`, `EXP1_SIZE` (D18). -/
  exp1 : Region := ⟨0x1F000000, 0x00800000⟩
  /-- `SCRATCH_BASE` (D18); the size 0x400 is fixed. -/
  scratchBase : Nat := 0x1F800000
  /-- `IO_BASE`, `IO_SIZE` (D18). -/
  io : Region := ⟨0x1F801000, 0x2000⟩
  /-- `BIOS_BASE`, `BIOS_SIZE` (D18). -/
  bios : Region := ⟨0x1FC00000, 0x80000⟩
  /-- `EXP_READ_STUB` (D22). -/
  expReadStub : Word := 0
  /-- `RESET_PC` (D7). -/
  resetPc : Word := 0xBFC00000
  /-- `VEC_BOOT` (D8). -/
  vecBoot : Word := 0xBFC00180
  /-- `VEC_GENERAL` (D8). -/
  vecGeneral : Word := 0x80000080
  ovfMode : OvfMode := .exception
  causeWriteZero : CauseWriteZero := .ignore
  /-- `GPU_READY_MASK` (D34): bits 26 and 28. -/
  gpuReadyMask : Word := 0x14000000
  gp0IrqEffect : Gp0IrqEffect := .clear
  /-- `H_START_DEFAULT`, `H_END_DEFAULT`, `V_START_DEFAULT`, `V_END_DEFAULT` (D40). -/
  hStartDefault : BitVec 12 := 0
  hEndDefault : BitVec 12 := 0
  vStartDefault : BitVec 10 := 0
  vEndDefault : BitVec 10 := 0
  deriving DecidableEq, Repr

namespace Config

/-- The machine with every OPEN parameter at the default R7 prints. -/
def default : Config := {}

/-- `SCRATCH_SIZE`, fixed by R7. -/
def scratchSize : Nat := 0x400

/-- `RAM_SIZE`, fixed by R7. -/
def ramSize : Nat := 0x200000

/-- `GP0_BUF_WORDS`, decided by R7 (D42). -/
abbrev gp0BufWords : Nat := 12

/-- The number of DMA channels, fixed by R7. -/
abbrev dmaChannels : Nat := 7

/-- The bits of `gpu_status` that some GP0 or GP1 rule writes (R52): 12:0, 24:14, 30:29. -/
def statusWritten : Word := 0x61FFDFFF

/-- What the spec takes for granted of the parameters: "Region bounds are multiples of 4" (R73), and the ready bits
are bits "no rule clears" (R51), so none of them is a bit that a rule writes. -/
abbrev WellFormed (c : Config) : Prop :=
  (c.ramWindow.base % 4 = 0 ∧ c.ramWindow.size % 4 = 0)
  ∧ (c.exp1.base % 4 = 0 ∧ c.exp1.size % 4 = 0)
  ∧ c.scratchBase % 4 = 0
  ∧ (c.io.base % 4 = 0 ∧ c.io.size % 4 = 0)
  ∧ (c.bios.base % 4 = 0 ∧ c.bios.size % 4 = 0)
  ∧ c.gpuReadyMask &&& statusWritten = 0

end Config

end Sys2Proof
end

