-- ==== Sys2Proof/Machine/State.lean ====
section
/-!
DEFINITION. The complete state of the core as plain data, `10_state.md` R20 to R66, the reasons a step can stop,
and the state after reset (R65, R441).
-/

namespace Sys2Proof.Machine

/-! ## Memories (R33 to R36) -/

/-- A memory: cells (byte offset, byte), offsets strictly rising, no cell equal to what an unlisted offset reads as
(`Memory.wf`). -/
abbrev Memory := List Host.Cell

/-- What an offset that no cell lists reads as.  The spec leaves the reset contents of `ram` and `scratch` open and
supplies `bios` from outside (R65): zero is a DESIGN CHOICE, unsafe (notes/assumptions/2.md). -/
def Memory.unlisted : Byte := 0

/-- The canonical form: one list for one memory contents. -/
abbrev Memory.wf (m : Memory) : Prop :=
  m.Pairwise (fun x y => x.1 < y.1) ∧ ∀ c ∈ m, c.2 ≠ Memory.unlisted

/-- Every listed offset lies inside a memory of `size` bytes. -/
abbrev Memory.within (size : Nat) (m : Memory) : Prop := ∀ c ∈ m, c.1 < size

/-! ## DMA state (R40 to R46) -/

/-- The three registers of one channel (R41, R42, R43). -/
structure Channel where
  madr : BitVec 24
  bcr : Word
  chcr : Word
  deriving DecidableEq, Repr

/-- A channel index, 0 to 6 (R40). -/
abbrev ChannelId := Fin Config.dmaChannels

/-- What the DMA engine owns (R40 to R46). -/
structure Dma where
  channels : Vector Channel Config.dmaChannels
  dpcr : Word
  /-- `dicr` bits 5:0 (R45). -/
  dicrLow6 : BitVec 6
  /-- `dicr` bit 15 (R45). -/
  dicrForce : Bool
  /-- `dicr` bits 22:16, `en[n]` at n (R45). -/
  dicrEn : BitVec 7
  /-- `dicr` bit 23 (R45). -/
  dicrMaster : Bool
  /-- `dicr` bits 30:24, `flag[n]` at n (R45). -/
  dicrFlags : BitVec 7
  /-- `dma_irq_pending` (R46). -/
  irqPending : Bool
  deriving DecidableEq, Repr

/-! ## GPU state (R50 to R60) -/

/-- `gp0_mode` (R59). -/
inductive Gp0Mode where
  | idle
  | bufferingParams
  | bufferingTextureData
  deriving DecidableEq, Repr

/-- A vertex handed to the renderer: `(x: int16, y: int16, colour: 24 bits)` (R370). -/
structure Vertex where
  x : Int
  y : Int
  colour : BitVec 24
  deriving DecidableEq, Repr

/-- A renderer event (R370). -/
inductive GpuEvent where
  | triangle (a b c : Vertex)
  | imageLoad (x y w h : Half)
  | imageWord (w : Word)
  deriving DecidableEq, Repr

/-- What the GPU command processor owns (R50 to R59). -/
structure Gpu where
  /-- `gpu_status` (R51, R52). -/
  status : Word
  /-- Texture window (R53). -/
  twMaskX : BitVec 5
  twMaskY : BitVec 5
  twOffX : BitVec 5
  twOffY : BitVec 5
  /-- Drawing area (R54). -/
  daLeft : BitVec 10
  daTop : BitVec 10
  daRight : BitVec 10
  daBottom : BitVec 10
  /-- Drawing offset: 11 bits held sign-extended in 16 (R55). -/
  offX : BitVec 16
  offY : BitVec 16
  /-- Display area and timing (R56). -/
  dispX : BitVec 10
  dispY : BitVec 9
  hStart : BitVec 12
  hEnd : BitVec 12
  vStart : BitVec 10
  vEnd : BitVec 10
  /-- Orientation flags (R57). -/
  rectFlipX : Bool
  rectFlipY : Bool
  /-- `gpu_out`, oldest first (R58). -/
  out : List GpuEvent
  /-- GP0 buffering state (R59). -/
  mode : Gp0Mode
  buf : Vector Word Config.gp0BufWords
  fetched : Word
  required : Word
  opcode : BitVec 8
  deriving DecidableEq, Repr

/-! ## Diagnostics and stops -/

/-- An entry of `dev_log` (R58): a dropped write to a stub (R89, R90) or a recorded DMA interrupt (R324). -/
inductive DevEvent where
  | droppedWrite (addr : Word) (n : Width) (v : Word)
  | dmaIrq (n : ChannelId)
  deriving DecidableEq, Repr

/-- Every reason of a Fatal stop with its diagnostic (R425).  Each is the spec's own unrecoverable stop, so each is
safe: no next state is claimed where the spec has none. -/
inductive FatalReason where
  /-- Decode: a word selected by no row of the opcode map (R131, R133).  Safe. -/
  | unknownInstruction (cia word : Word)
  /-- A branch or jump in a delay slot (R221).  Safe. -/
  | branchInDelaySlot (cia : Word)
  /-- An exception raised in a delay slot (R416).  Safe. -/
  | exceptionInDelaySlot (cia : Word) (code : BitVec 5)
  /-- Signed overflow when `OVF_MODE` = fatal (R151).  Safe. -/
  | overflow (cia : Word)
  /-- `mfc0` or `mtc0` of a register other than 12, 13, 14 (R281).  Safe. -/
  | unknownCop0Register (cia : Word) (rd : Reg)
  /-- `mtc0` of a non-zero value to `cause` (R286).  Safe. -/
  | cop0CauseWrite (cia v : Word)
  /-- A misaligned data access or fetch (R77).  Safe. -/
  | misaligned (addr : Word) (n : Width)
  /-- An access outside every region (R92).  Safe. -/
  | unmappedAddress (addr : Word)
  /-- An 8- or 16-bit access inside a mapped device register (R93).  Safe. -/
  | unsupportedWidth (phys : Word) (n : Width)
  /-- A bus write to the firmware region (R88): R81 hands on the address, R425 lists the physical one; both stand
  here.  Safe. -/
  | writeToFirmware (addr phys : Word)
  /-- DMA sync mode 3 (R314).  Safe. -/
  | dmaReservedSync (n : ChannelId) (control : Word)
  /-- Linked-list mode on a channel other than 2 or toward RAM (R313).  Safe. -/
  | dmaBadLinkedList (n : ChannelId) (control : Word)
  /-- A device and direction the engine does not serve (R316).  Safe. -/
  | dmaUnsupported (n : ChannelId) (control : Word)
  /-- A GP0 word with no handler, in Idle (R368).  Safe. -/
  | unknownGp0 (w : Word)
  /-- A GP1 word with no handler (R400).  Safe. -/
  | unknownGp1 (w : Word)
  deriving DecidableEq, Repr

/-! ## The whole state -/

/-- The state of the core (R20): the CPU, the Router's three memories, the DMA engine, the GPU, the logs, and the
fixed parameters of this machine. -/
structure State where
  /-- The OPEN parameters (R7); no step changes them. -/
  cfg : Config
  /-- `x[0]` .. `x[31]` (R21), read and written through `State.reg` and `State.setReg` only. -/
  regs : Vector Word 32
  /-- `hi`, `lo` (R23). -/
  hi : Word
  lo : Word
  /-- `current_pc`, `next_pc` (R24). -/
  currentPc : Word
  nextPc : Word
  /-- `current_instruction_address` (R25). -/
  cia : Word
  /-- `executed_branch`, `in_delay_slot` (R26). -/
  executedBranch : Bool
  inDelaySlot : Bool
  /-- `halted` (R28). -/
  halted : Option FatalReason
  /-- Coprocessor 0 (R29 to R32). -/
  sr : Word
  cause : Word
  epc : Word
  /-- Main memory, scratchpad, firmware, by byte offset (R33, R34, R35). -/
  ram : Memory
  scratch : Memory
  bios : Memory
  dma : Dma
  gpu : Gpu
  /-- `dev_log`, oldest first (R58). -/
  devLog : List DevEvent
  deriving DecidableEq, Repr

/-- Why a step has no next state and the machine stops. -/
inductive Fault where
  /-- A Fatal stop (R424), raised wherever R425 says: the reason, and the state as it is at the stop with `halted`
  set; "no claim may treat the halted state as final" (D56).  Safe. -/
  | fatal (reason : FatalReason) (stop : State)
  /-- A linked list on channel 2 that never reaches the sentinel: "the step never returns, and no later state
  exists" (R321), a stuck state.  Raised by the `sw`, `swl` or `swr` that started it.  Safe. -/
  | endlessLinkedList (madr : BitVec 24) (control : Word)
  deriving DecidableEq, Repr

/-- Why a step has no meaning. -/
inductive Refusal where
  /-- An instruction whose arm of `exec` has no meaning yet.  Safe.  No arm of this model is one. -/
  | notModelled (mnemonic : String)
  /-- `step` asked of a halted machine: "`step` is not defined on a halted machine" (R424, U39).  Safe. -/
  | halted (reason : FatalReason)
  /-- A GP0 parameter word that finds no room in the buffer: R60 excludes the state it arises in.  Safe. -/
  | gp0BufferOverrun (fetched : Word)
  /-- A GP0 dispatch of a buffered opcode that R356 has no case for: R60 excludes the state.  Safe. -/
  | gp0NoSuchBufferedOpcode (opcode : BitVec 8)
  deriving DecidableEq, Repr

/-- What an operation of the core answers (R11, R412). -/
abbrev Result := Host.Outcome State Fault Refusal

/-! ## Reset (R65) -/

/-- A channel after reset (R65). -/
def Channel.reset : Channel := ⟨0, 0, 0⟩

/-- The DMA engine after reset (R65): all zero but `dpcr`. -/
def Dma.reset : Dma where
  channels := Vector.replicate _ Channel.reset
  dpcr := 0x07654321
  dicrLow6 := 0
  dicrForce := false
  dicrEn := 0
  dicrMaster := false
  dicrFlags := 0
  irqPending := false

/-- The GPU after reset (R65): the soft-reset state with the ready bits set. -/
def Gpu.reset (c : Config) : Gpu where
  status := c.gpuReadyMask
  twMaskX := 0
  twMaskY := 0
  twOffX := 0
  twOffY := 0
  daLeft := 0
  daTop := 0
  daRight := 0
  daBottom := 0
  offX := 0
  offY := 0
  dispX := 0
  dispY := 0
  hStart := c.hStartDefault
  hEnd := c.hEndDefault
  vStart := c.vStartDefault
  vEnd := c.vEndDefault
  rectFlipX := false
  rectFlipY := false
  out := []
  mode := .idle
  buf := Vector.replicate _ 0
  fetched := 0
  required := 0
  opcode := 0

/-- The core right after power-on with the parameters `c` and the firmware image `image` (R65, R440, R446).
`x[1]`..`x[31]`, `hi`, `lo`, `ram` and `scratch` are "unspecified": 0 here, a DESIGN CHOICE, unsafe
(notes/assumptions/1.md, notes/assumptions/2.md). -/
def State.resetWith (c : Config) (image : Memory) : State where
  cfg := c
  regs := Vector.replicate _ 0
  hi := 0
  lo := 0
  currentPc := c.resetPc
  nextPc := c.resetPc + 4
  cia := 0
  executedBranch := false
  inDelaySlot := false
  halted := none
  sr := 0
  cause := 0
  epc := 0
  ram := []
  scratch := []
  bios := image
  dma := Dma.reset
  gpu := Gpu.reset c
  devLog := []

/-- The machine right after reset: every parameter at its default, and an image that lists no byte
(notes/assumptions/2.md). -/
def State.reset : State := State.resetWith Config.default []

end Sys2Proof.Machine
end

