-- ==== Sys2Proof/Machine/Ops.lean ====
section
/-!
DEFINITION. The named operations over registers and memories, the two ways an operation ends other than normally
(a Fatal stop, an exception), and the return from an exception: `10_state.md` R21, `20_memory.md` R75,
`60_exceptions.md` R416 and R424, `44_system_cop0.md` R287.
-/

namespace Sys2Proof.Machine

/-! ## Sequencing and stops -/

/-- Go on with `f` after a normal end; a stop ends the whole operation (R411). -/
def Result.andThen (r : Result) (f : State → Result) : Result :=
  match r with
  | .next s => f s
  | .fault e => .fault e
  | .refused e => .refused e

/-- `Fatal(reason)` (R424): `halted` is set and the step ends at this state; `epc`, `cause` and `sr` are not
written. -/
def State.stop (s : State) (r : FatalReason) : Result := .fault (.fatal r { s with halted := some r })

/-! ## General registers (R21) -/

/-- `x[i]`: `x[0]` always reads 0. -/
def State.reg (s : State) (i : Reg) : Word := if i = 0 then 0 else s.regs[i.toNat]

/-- `x[i] <- v`: a write to `x[0]` is dropped. -/
def State.setReg (s : State) (i : Reg) (v : Word) : State :=
  if i = 0 then s else { s with regs := s.regs.set i.toNat v }

/-- Write `hi` and `lo` together (R200). -/
def State.setHiLo (s : State) (h l : Word) : State := { s with hi := h, lo := l }

/-! ## Fields of a word -/

/-- `w[lo+n-1 : lo] <- v`, the other bits unchanged. -/
def putField {n : Nat} (w : Word) (lo : Nat) (v : BitVec n) : Word :=
  (w &&& ~~~((BitVec.allOnes n).setWidth 32 <<< lo)) ||| (v.setWidth 32 <<< lo)

/-! ## Memories, byte by byte -/

namespace Memory

/-- The byte at an offset. -/
def read : Memory → Nat → Byte
  | [], _ => unlisted
  | (k, v) :: m, o => if o = k then v else read m o

/-- Put a byte at an offset, keeping the canonical form: writing the unlisted value removes the cell. -/
def write : Memory → Nat → Byte → Memory
  | [], o, b => if b = unlisted then [] else [(o, b)]
  | (k, v) :: m, o, b =>
    if o < k then (if b = unlisted then (k, v) :: m else (o, b) :: (k, v) :: m)
    else if o = k then (if b = unlisted then m else (o, b) :: m)
    else (k, v) :: write m o b

/-- `LE(mem, o, n)` (R75): the little-endian value of n bytes at offset o. -/
def readLE (m : Memory) (o : Nat) : Width → Word
  | .byte => (m.read o).setWidth 32
  | .half => (m.read (o + 1) ++ m.read o).setWidth 32
  | .word => wordOfBytes (m.read o) (m.read (o + 1)) (m.read (o + 2)) (m.read (o + 3))

/-- Byte k of a word, `v[8k+7 : 8k]` (R75). -/
def byteOf (v : Word) (k : Nat) : Byte := v.extractLsb' (8 * k) 8

/-- `StoreLE(mem, o, n, v)` (R81): `mem[o+k] <- v[8k+7:8k]` for k = 0..n-1; higher bits of v are ignored. -/
def writeLE (m : Memory) (o : Nat) (n : Width) (v : Word) : Memory :=
  match n with
  | .byte => m.write o (byteOf v 0)
  | .half => (m.write o (byteOf v 0)).write (o + 1) (byteOf v 1)
  | .word =>
    (((m.write o (byteOf v 0)).write (o + 1) (byteOf v 1)).write (o + 2) (byteOf v 2)).write (o + 3)
      (byteOf v 3)

end Memory

/-- The mask of main memory's byte offsets, 2 MB minus 1 (R82). -/
def ramMask : Word := 0x1FFFFF

/-- The mask of main memory's word offsets (R96, R315). -/
def ramWordMask : Word := 0x1FFFFC

/-- `Ram32[o]` (R96). -/
def State.ramWord (s : State) (o : Word) : Word := s.ram.readLE o.toNat .word

/-- `Ram32[o] <- v` (R96). -/
def State.setRamWord (s : State) (o v : Word) : State := { s with ram := s.ram.writeLE o.toNat .word v }

/-! ## Exceptions -/

/-- The codes of the three exceptions this CPU raises (R414). -/
def codeSys : BitVec 5 := 8
def codeBp : BitVec 5 := 9
def codeOv : BitVec 5 := 12

/-- `sr` after entry: the 6-bit stack shifted left by 2, two zeros in (R416). -/
def pushModeStack (sr : Word) : Word := (sr &&& 0xFFFFFFC0) ||| (((sr &&& 0x3F) <<< 2) &&& 0x3F)

/-- `sr` after `rfe`: the 6-bit stack shifted right by 2, two zeros in (R287). -/
def popModeStack (sr : Word) : Word := (sr &&& 0xFFFFFFC0) ||| ((sr &&& 0x3F) >>> 2)

/-- The vector `sr[22]` (BEV) selects (R417). -/
def State.vector (s : State) : Word := if s.sr.getLsbD 22 then s.cfg.vecBoot else s.cfg.vecGeneral

/-- What exception entry writes, outside a delay slot (R416). -/
def State.enterException (s : State) (code : BitVec 5) : State :=
  { s with
    sr := pushModeStack s.sr
    cause := code.setWidth 32 <<< 2
    epc := s.cia
    currentPc := s.vector
    nextPc := s.vector + 4 }

/-- `raise Exception(code)` (R416): Fatal in a delay slot, else entry, which is an ordinary continuation. -/
def State.raise (s : State) (code : BitVec 5) : Result :=
  if s.inDelaySlot then s.stop (.exceptionInDelaySlot s.cia code) else .next (s.enterException code)

/-- The return from an exception restores the mode stack only (R287, R419). -/
def State.returnFromException (s : State) : State := { s with sr := popModeStack s.sr }

/-- `OvfTrap()` (R151), called after the destination has been written. -/
def State.overflowTrap (s : State) : Result :=
  match s.cfg.ovfMode with
  | .exception => s.raise codeOv
  | .fatal => s.stop (.overflow s.cia)

end Sys2Proof.Machine
end

