-- ==== Sys2Proof/Machine/Gpu.lean ====
section
/-!
DEFINITION. The GPU command processor as a machine of its own registers: what one word on port 0 (GP0) or port 1
(GP1) does to it, `46_gpu_gp0_commands.md` and `47_gpu_gp1_commands.md`.
-/

namespace Sys2Proof.Machine

/-- What a word does to the GPU: a next GPU state, a Fatal reason, or, outside R60, no meaning. -/
abbrev GpuResult := Host.Outcome Gpu FatalReason Refusal

namespace Gpu

/-! ## GP0 zero-parameter commands -/

/-- GP0 0x1F (R360): the interrupt flag, `gpu_status[24]`, per `GP0_1F_EFFECT`. -/
def interruptCommand (c : Config) (g : Gpu) : Gpu :=
  match c.gp0IrqEffect with
  | .clear => { g with status := putField g.status 24 (0 : BitVec 1) }
  | .set => { g with status := putField g.status 24 (1 : BitVec 1) }

/-- GP0 0xE1 (R361). -/
def setDrawMode (g : Gpu) (w : Word) : Gpu :=
  { g with
    status := putField (putField g.status 0 (w.extractLsb' 0 11)) 15 (w.extractLsb' 11 1)
    rectFlipX := w.getLsbD 12
    rectFlipY := w.getLsbD 13 }

/-- GP0 0xE2 (R362). -/
def setTextureWindow (g : Gpu) (w : Word) : Gpu :=
  { g with
    twMaskX := w.extractLsb' 0 5
    twMaskY := w.extractLsb' 5 5
    twOffX := w.extractLsb' 10 5
    twOffY := w.extractLsb' 15 5 }

/-- GP0 0xE3 (R363). -/
def setDrawAreaTopLeft (g : Gpu) (w : Word) : Gpu :=
  { g with daLeft := w.extractLsb' 0 10, daTop := w.extractLsb' 10 10 }

/-- GP0 0xE4 (R364). -/
def setDrawAreaBottomRight (g : Gpu) (w : Word) : Gpu :=
  { g with daRight := w.extractLsb' 0 10, daBottom := w.extractLsb' 10 10 }

/-- GP0 0xE5 (R365): `sext_11`, held in 16 bits (R55). -/
def setDrawOffset (g : Gpu) (w : Word) : Gpu :=
  { g with
    offX := (w.extractLsb' 0 11).signExtend 16
    offY := (w.extractLsb' 11 11).signExtend 16 }

/-- GP0 0xE6 (R366). -/
def setMaskBits (g : Gpu) (w : Word) : Gpu :=
  { g with status := putField (putField g.status 11 (w.extractLsb' 0 1)) 12 (w.extractLsb' 1 1) }

/-! ## The length table and the buffering state -/

/-- `GP0_LEN` (R367): words including the opcode word; the other entries of the table are "not used". -/
def gp0Len (op : BitVec 8) : Word :=
  match op.toNat with
  | 0x28 => 5
  | 0x30 => 6
  | 0x38 => 8
  | 0xA0 => 3
  | _ => 0

/-- Begin a multi-word command (R354). -/
def begin_ (g : Gpu) (op : BitVec 8) (w : Word) : Gpu :=
  { g with
    opcode := op
    buf := g.buf.set 0 w
    fetched := 1
    required := gp0Len op
    mode := .bufferingParams }

/-- Back to Idle with both counters 0 (R356, R357). -/
def toIdle (g : Gpu) : Gpu := { g with mode := .idle, fetched := 0, required := 0 }

/-! ## Draw commands -/

/-- A vertex from its word and colour: x in the low half, y in the high half, both signed (R370). -/
def vertex (v : Word) (colour : BitVec 24) : Vertex :=
  ⟨(v.extractLsb' 0 16).toInt, (v.extractLsb' 16 16).toInt, colour⟩

/-- Append renderer events (R58). -/
def emit (g : Gpu) (es : List GpuEvent) : Gpu := { g with out := g.out ++ es }

/-- A quad is "two triangles sharing a diagonal" (R370). -/
def quad (a b c d : Vertex) : List GpuEvent := [.triangle a b c, .triangle b c d]

/-- GP0 0x28 (R371). -/
def drawMonoQuad (g : Gpu) : Gpu :=
  let p := g.buf
  let c := low24 p[0]
  g.emit (quad (vertex p[1] c) (vertex p[2] c) (vertex p[3] c) (vertex p[4] c))

/-- GP0 0x30 (R372). -/
def drawShadedTriangle (g : Gpu) : Gpu :=
  let p := g.buf
  g.emit [.triangle (vertex p[1] (low24 p[0])) (vertex p[3] (low24 p[2])) (vertex p[5] (low24 p[4]))]

/-- GP0 0x38 (R373). -/
def drawShadedQuad (g : Gpu) : Gpu :=
  let p := g.buf
  g.emit (quad (vertex p[1] (low24 p[0])) (vertex p[3] (low24 p[2])) (vertex p[5] (low24 p[4]))
    (vertex p[7] (low24 p[6])))

/-- The data words of an image of w by h pixels, two to a word, rounded up (R374). -/
def imageWords (w h : Half) : Word := BitVec.ofNat 32 ((w.toNat * h.toNat + 1) / 2)

/-- GP0 0xA0 (R374): it sets its own next mode. -/
def beginImageLoad (g : Gpu) : Gpu :=
  let dest := g.buf[1]
  let size := g.buf[2]
  let w := size.extractLsb' 0 16
  let h := size.extractLsb' 16 16
  let g := g.emit [.imageLoad (dest.extractLsb' 0 16) (dest.extractLsb' 16 16) w h]
  let words := imageWords w h
  if words = 0 then { g with fetched := 0, mode := .idle, required := 0 }
  else { g with fetched := 0, mode := .bufferingTextureData, required := words }

/-- Dispatch of the buffered opcode (R356). -/
def dispatch (g : Gpu) : GpuResult :=
  match g.opcode.toNat with
  | 0x28 => .next g.drawMonoQuad.toIdle
  | 0x30 => .next g.drawShadedTriangle.toIdle
  | 0x38 => .next g.drawShadedQuad.toIdle
  | 0xA0 => .next g.beginImageLoad
  | _ => .refused (.gp0NoSuchBufferedOpcode g.opcode)

/-! ## The port's state machine -/

/-- A word in Idle: its top byte is an opcode (R352). -/
def gp0Idle (c : Config) (g : Gpu) (w : Word) : GpuResult :=
  match (gp0Op w).toNat with
  | 0x00 => .next g
  | 0x01 => .next g
  | 0x1F => .next (g.interruptCommand c)
  | 0xE1 => .next (g.setDrawMode w)
  | 0xE2 => .next (g.setTextureWindow w)
  | 0xE3 => .next (g.setDrawAreaTopLeft w)
  | 0xE4 => .next (g.setDrawAreaBottomRight w)
  | 0xE5 => .next (g.setDrawOffset w)
  | 0xE6 => .next (g.setMaskBits w)
  | 0x28 => .next (g.begin_ 0x28 w)
  | 0x30 => .next (g.begin_ 0x30 w)
  | 0x38 => .next (g.begin_ 0x38 w)
  | 0xA0 => .next (g.begin_ 0xA0 w)
  | _ => .fault (.unknownGp0 w)

/-- A word in BufferingParams: data, whatever its top byte (R355). -/
def gp0Param (g : Gpu) (w : Word) : GpuResult :=
  if h : g.fetched.toNat < Config.gp0BufWords then
    let g' := { g with buf := g.buf.set g.fetched.toNat w h, fetched := g.fetched + 1 }
    if g'.fetched = g'.required then g'.dispatch else .next g'
  else .refused (.gp0BufferOverrun g.fetched)

/-- A word in BufferingTextureData: counted and passed through (R357). -/
def gp0Texel (g : Gpu) (w : Word) : Gpu :=
  let g' := { g.emit [.imageWord w] with fetched := g.fetched + 1 }
  if g'.fetched = g'.required then g'.toIdle else g'

/-- `GP0(w)` (R351). -/
def gp0 (c : Config) (g : Gpu) (w : Word) : GpuResult :=
  match g.mode with
  | .idle => g.gp0Idle c w
  | .bufferingParams => g.gp0Param w
  | .bufferingTextureData => .next (g.gp0Texel w)

/-! ## GP1 -/

/-- Soft reset (R392): every configuration field and the buffering state; the ready bits and `gpu_out` stay. -/
def softReset (c : Config) (g : Gpu) : Gpu :=
  { Gpu.reset c with status := g.status &&& c.gpuReadyMask, out := g.out }

/-- GP1 0x08 (R399). -/
def setDisplayMode (g : Gpu) (w : Word) : Gpu :=
  let st := putField g.status 17 (w.extractLsb' 0 2)
  let st := putField st 19 (w.extractLsb' 2 1)
  let st := putField st 20 (w.extractLsb' 3 1)
  let st := putField st 21 (w.extractLsb' 4 1)
  let st := putField st 22 (w.extractLsb' 5 1)
  let st := putField st 16 (w.extractLsb' 6 1)
  { g with status := putField st 14 (w.extractLsb' 7 1) }

/-- `GP1(w)` (R390). -/
def gp1 (c : Config) (g : Gpu) (w : Word) : GpuResult :=
  match (gp1Op w).toNat with
  | 0 => .next (g.softReset c)
  | 2 => .next { g with status := putField g.status 24 (0 : BitVec 1) }
  | 3 => .next { g with status := putField g.status 23 (w.extractLsb' 0 1) }
  | 4 => .next { g with status := putField g.status 29 (w.extractLsb' 0 2) }
  | 5 => .next { g with dispX := w.extractLsb' 0 10, dispY := w.extractLsb' 10 9 }
  | 6 => .next { g with hStart := w.extractLsb' 0 12, hEnd := w.extractLsb' 12 12 }
  | 7 => .next { g with vStart := w.extractLsb' 0 10, vEnd := w.extractLsb' 10 10 }
  | 8 => .next (g.setDisplayMode w)
  | _ => .fault (.unknownGp1 w)

end Gpu

/-! ## The ports as the rest of the machine sees them -/

/-- Carry a GPU outcome into the whole machine: only `gpu` changes. -/
def State.afterGpu (s : State) (r : GpuResult) : Result :=
  match r with
  | .next g => .next { s with gpu := g }
  | .fault e => s.stop e
  | .refused e => .refused e

/-- Hand a word to GPU port 0 (R350). -/
def State.gp0 (s : State) (w : Word) : Result := s.afterGpu (s.gpu.gp0 s.cfg w)

/-- Hand a word to GPU port 1 (R390). -/
def State.gp1 (s : State) (w : Word) : Result := s.afterGpu (s.gpu.gp1 s.cfg w)

/-- Hand words to GPU port 0 one after the other, as CPU stores or DMA units would (R350). -/
def State.gp0Stream : List Word → State → Result
  | [], s => .next s
  | w :: ws, s =>
    match s.gp0 w with
    | .next s' => gp0Stream ws s'
    | .fault e => .fault e
    | .refused e => .refused e

/-- Hand words to GPU port 1 one after the other. -/
def State.gp1Stream : List Word → State → Result
  | [], s => .next s
  | w :: ws, s =>
    match s.gp1 w with
    | .next s' => gp1Stream ws s'
    | .fault e => .fault e
    | .refused e => .refused e

end Sys2Proof.Machine
end

