-- ==== Sys2Proof/Machine/Operands.lean ====
section
/-!
DEFINITION. Operand assembly: every immediate, address, target and shift-count form of `30_encoding.md` R125, the link
value of `42_branch_jump.md` R222, and the merge tables of `43_load_store.md` R261 to R264.
-/

namespace Sys2Proof.Machine

/-- `sext_16(imm)` (R9). -/
def sext16 (imm : Half) : Word := imm.signExtend 32

/-- `zext_16(imm)` (R9). -/
def zext16 (imm : Half) : Word := imm.setWidth 32

/-- `lui`: `imm << 16` (R125). -/
def upper16 (imm : Half) : Word := imm.setWidth 32 <<< 16

/-- The effective address `x[rs] + sext_16(imm)` modulo 2^32 (R250). -/
def State.effectiveAddress (s : State) (rs : Reg) (imm : Half) : Word := s.reg rs + sext16 imm

/-- A branch target: the delay slot's address plus the offset in words (R125). -/
def State.branchTarget (s : State) (offset : Half) : Word := s.currentPc + (sext16 offset <<< 2)

/-- A jump target: in the 256 MB region of the delay slot (R125). -/
def State.jumpTarget (s : State) (target : BitVec 26) : Word :=
  (s.currentPc &&& 0xF0000000) ||| (target.setWidth 32 <<< 2)

/-- The link value, `next_pc` at entry (R222). -/
def State.linkValue (s : State) : Word := s.nextPc

/-- Register 31, the implicit link register (R21). -/
def linkReg : Reg := 31

/-- The count of a variable shift, `x[rs][4:0]` (R125). -/
def State.shiftCount (s : State) (rs : Reg) : Nat := ((s.reg rs).extractLsb' 0 5).toNat

/-- The aligned word that contains an address (R76, R261). -/
def alignedWord (ea : Word) : Word := ea &&& 0xFFFFFFFC

/-- `ea[1:0]`, the key of the merge tables (R261). -/
def laneOf (ea : Word) : Nat := (ea.extractLsb' 0 2).toNat

/-- `sext_8`, `sext_16` and zero extension of a loaded value (R253 to R257). -/
def sextByte (v : Word) : Word := (v.setWidth 8).signExtend 32
def sextHalf (v : Word) : Word := (v.setWidth 16).signExtend 32
def zextByte (v : Word) : Word := (v.setWidth 8).setWidth 32
def zextHalf (v : Word) : Word := (v.setWidth 16).setWidth 32

/-- `lwl` (R261): the register `c` merged with the memory word `w`. -/
def mergeLwl (k : Nat) (c w : Word) : Word :=
  match k with
  | 0 => (c &&& 0x00FFFFFF) ||| (w <<< 24)
  | 1 => (c &&& 0x0000FFFF) ||| (w <<< 16)
  | 2 => (c &&& 0x000000FF) ||| (w <<< 8)
  | _ => w

/-- `lwr` (R262). -/
def mergeLwr (k : Nat) (c w : Word) : Word :=
  match k with
  | 0 => w
  | 1 => (c &&& 0xFF000000) ||| (w >>> 8)
  | 2 => (c &&& 0xFFFF0000) ||| (w >>> 16)
  | _ => (c &&& 0xFFFFFF00) ||| (w >>> 24)

/-- `swl` (R263): the memory word `m` merged with the register `v`. -/
def mergeSwl (k : Nat) (m v : Word) : Word :=
  match k with
  | 0 => (m &&& 0xFFFFFF00) ||| (v >>> 24)
  | 1 => (m &&& 0xFFFF0000) ||| (v >>> 16)
  | 2 => (m &&& 0xFF000000) ||| (v >>> 8)
  | _ => v

/-- `swr` (R264). -/
def mergeSwr (k : Nat) (m v : Word) : Word :=
  match k with
  | 0 => v
  | 1 => (m &&& 0x000000FF) ||| (v <<< 8)
  | 2 => (m &&& 0x0000FFFF) ||| (v <<< 16)
  | _ => (m &&& 0x00FFFFFF) ||| (v <<< 24)

end Sys2Proof.Machine
end

