-- ==== Sys2Proof/Machine/DmaEngine.lean ====
section
/-!
DEFINITION. The DMA engine, `45_dma_engine.md`: its registers and the transfers that run to completion inside the
store to a channel-control register.
-/

namespace Sys2Proof.Machine

/-! ## Registers -/

namespace Dma

/-- Replace one channel's registers. -/
def setChannel (d : Dma) (n : ChannelId) (ch : Channel) : Dma :=
  { d with channels := d.channels.set n.val ch }

/-- One channel's registers (R40). -/
def channel (d : Dma) (n : ChannelId) : Channel := d.channels[n.val]

/-- The master flag, computed on read (R305). -/
def masterFlag (d : Dma) : Bool := d.dicrForce || (d.dicrMaster && (d.dicrFlags &&& d.dicrEn) != 0)

/-- `DicrRead()` (R305). -/
def dicrRead (d : Dma) : Word :=
  d.dicrLow6.setWidth 32
    ||| ((bit d.dicrForce).setWidth 32 <<< 15)
    ||| (d.dicrEn.setWidth 32 <<< 16)
    ||| ((bit d.dicrMaster).setWidth 32 <<< 23)
    ||| (d.dicrFlags.setWidth 32 <<< 24)
    ||| ((bit d.masterFlag).setWidth 32 <<< 31)

/-- `DicrWrite(v)` (R306): "a written 1 in a flag bit clears that flag". -/
def dicrWrite (d : Dma) (v : Word) : Dma :=
  { d with
    dicrLow6 := v.extractLsb' 0 6
    dicrForce := v.getLsbD 15
    dicrEn := v.extractLsb' 16 7
    dicrMaster := v.getLsbD 23
    dicrFlags := d.dicrFlags &&& ~~~(v.extractLsb' 24 7) }

end Dma

/-! ## Fields of the control words (R42, R43) -/

/-- `chcr[0]`: 1 is FromRAM. -/
def chcrFromRam (c : Word) : Bool := c.getLsbD 0
/-- `chcr[1]`: 1 is a step of -4. -/
def chcrStepDown (c : Word) : Bool := c.getLsbD 1
/-- `chcr[10:9]`, the sync mode. -/
def chcrSync (c : Word) : BitVec 2 := c.extractLsb' 9 2
def chcrEnable (c : Word) : Bool := c.getLsbD 24
def chcrTrigger (c : Word) : Bool := c.getLsbD 28
/-- Block size, `bcr[15:0]`. -/
def bcrSize (b : Word) : Nat := (b.extractLsb' 0 16).toNat
/-- Block count, `bcr[31:16]`. -/
def bcrCount (b : Word) : Nat := (b.extractLsb' 16 16).toNat

/-- The active predicate (R43, R307). -/
def chcrActive (c : Word) : Bool := chcrEnable c && (chcrSync c != 0 || chcrTrigger c)

/-- The channel bound to the GPU and the ordering-table-clear channel (R40). -/
def gpuChannel : ChannelId := 2
def otcChannel : ChannelId := 6

def State.channel (s : State) (n : ChannelId) : Channel := s.dma.channel n

def State.setMadr (s : State) (n : ChannelId) (v : BitVec 24) : State :=
  { s with dma := s.dma.setChannel n { s.channel n with madr := v } }

def State.setBcr (s : State) (n : ChannelId) (v : Word) : State :=
  { s with dma := s.dma.setChannel n { s.channel n with bcr := v } }

def State.setChcr (s : State) (n : ChannelId) (v : Word) : State :=
  { s with dma := s.dma.setChannel n { s.channel n with chcr := v } }

/-! ## Block transfer (R315 to R319) -/

/-- The next address of a block transfer (R319). -/
def dmaNext (c addr : Word) : Word := if chcrStepDown c then addr - 4 else addr + 4

/-- The word an ordering-table clear writes at `addr` with `rem` units left (R317). -/
def otcValue (rem : Nat) (addr : Word) : Word :=
  if rem = 1 then 0x00FFFFFF else (addr - 4) &&& ramMask

/-- One unit of a block transfer (R315): the device and direction test is inside the loop (R316). -/
def dmaUnit (n : ChannelId) (c : Word) (rem : Nat) (addr : Word) (s : State) : Result :=
  let cur := addr &&& ramWordMask
  if chcrFromRam c = false ∧ n = otcChannel then .next (s.setRamWord cur (otcValue rem addr))
  else if chcrFromRam c = true ∧ n = gpuChannel then s.gp0 (s.ramWord cur)
  else s.stop (.dmaUnsupported n c)

/-- The loop of R315: `rem` units from the running address `addr`. -/
def dmaBlock (n : ChannelId) (c : Word) : Nat → Word → State → Result
  | 0, _, s => .next s
  | rem + 1, addr, s =>
    match dmaUnit n c (rem + 1) addr s with
    | .next s' => dmaBlock n c rem (dmaNext c addr) s'
    | .fault e => .fault e
    | .refused e => .refused e

/-- The length of an immediate transfer: "0 means maximum" (R310, R311). -/
def immediateLength (b : Word) : Nat := if bcrSize b = 0 then 0x10000 else bcrSize b

/-- The length of a sync-to-requests transfer: the literal product (R312). -/
def requestLength (b : Word) : Nat := bcrSize b * bcrCount b

/-! ## Linked-list transfer (R320 to R322) -/

/-- The address after `addr` in a node (R320). -/
def listNext (addr : Word) : Word := (addr + 4) &&& ramWordMask

/-- Forward the `k` words that follow `addr` to the GPU (R320). -/
def dmaForward : Nat → Word → State → Result
  | 0, _, s => .next s
  | k + 1, addr, s =>
    match s.gp0 (s.ramWord (listNext addr)) with
    | .next s' => dmaForward k (listNext addr) s'
    | .fault e => .fault e
    | .refused e => .refused e

/-- `header[31:24]`, the command-word count of a node (R320). -/
def headerCount (h : Word) : Nat := (h.extractLsb' 24 8).toNat

/-- Whether a header's low 24 bits are the sentinel, "by equality" (R321). -/
def headerEnds (h : Word) : Bool := low24 h == 0xFFFFFF

/-- The next node's address (R320). -/
def headerNext (h : Word) : Word := (low24 h).setWidth 32 &&& ramWordMask

/-- How many nodes the walk visits before it is known never to end: 2^128.  What a walk does from a node on depends
on the node's address (19 bits), on main memory, which no GPU word changes, and on the GPU's buffering state: the
mode (2 bits), the two counters (32 each), the opcode (8) and the size word of an image load (32).  These are 125
bits, so a walk of more than 2^125 nodes has come back to a point it was at and repeats for ever
(notes/assumptions/6.md). -/
def listFuel : Nat := 0x100000000000000000000000000000000

/-- The walk of R320 over at most `fuel` nodes; a walk that needs more is R321's transfer without end. -/
def dmaListFrom (n : ChannelId) : Nat → Word → State → Result
  | 0, _, s => .fault (.endlessLinkedList (s.channel n).madr (s.channel n).chcr)
  | fuel + 1, addr, s =>
    match dmaForward (headerCount (s.ramWord addr)) addr s with
    | .next s' =>
      if headerEnds (s.ramWord addr) then .next s' else dmaListFrom n fuel (headerNext (s.ramWord addr)) s'
    | .fault e => .fault e
    | .refused e => .refused e

/-- `LinkedList(n)` (R320). -/
def dmaList (n : ChannelId) (s : State) : Result :=
  dmaListFrom n listFuel ((s.channel n).madr.setWidth 32 &&& ramWordMask) s

/-! ## Completion and the channel-control write -/

/-- Whether completion of channel n signals a pending interrupt (R324). -/
def Dma.signals (d : Dma) (n : ChannelId) : Bool := d.dicrForce || (d.dicrMaster && d.dicrEn.getLsbD n.val)

/-- Channel n's completion flag, set only while its enable bit is (R323). -/
def Dma.flagCompletion (d : Dma) (n : ChannelId) : Dma :=
  { d with dicrFlags := if d.dicrEn.getLsbD n.val then d.dicrFlags ||| ((1 : BitVec 7) <<< n.val) else d.dicrFlags }

/-- Record a pending interrupt, which nothing delivers (R324). -/
def State.signalDma (s : State) (n : ChannelId) : State :=
  if s.dma.signals n then
    { s with dma := { s.dma with irqPending := true }, devLog := s.devLog ++ [.dmaIrq n] }
  else s

/-- `chcr` with the enable and trigger bits, 24 and 28, clear (R323). -/
def chcrDone (c : Word) : Word := c &&& 0xEEFFFFFF

/-- `Complete(n)` (R323). -/
def dmaComplete (n : ChannelId) (s : State) : State :=
  let s := s.setChcr n (chcrDone (s.channel n).chcr)
  { s with dma := s.dma.flagCompletion n }.signalDma n

/-- The part of `Transfer(n)` before completion: dispatch on the sync mode (R309, R313, R314). -/
def dmaRun (n : ChannelId) (s : State) : Result :=
  let c := (s.channel n).chcr
  let b := (s.channel n).bcr
  let addr := (s.channel n).madr.setWidth 32
  match (chcrSync c).toNat with
  | 0 => dmaBlock n c (immediateLength b) addr s
  | 1 => dmaBlock n c (requestLength b) addr s
  | 2 =>
    if n ≠ gpuChannel ∨ chcrFromRam c = false then s.stop (.dmaBadLinkedList n c)
    else dmaList n s
  | _ => s.stop (.dmaReservedSync n c)

/-- `Transfer(n)` (R309). -/
def dmaTransfer (n : ChannelId) (s : State) : Result := (dmaRun n s).andThen fun s' => .next (dmaComplete n s')

/-- `ChcrWrite(n, v)` (R308): store, then transfer if the channel is now active. -/
def chcrWrite (n : ChannelId) (v : Word) (s : State) : Result :=
  let s := s.setChcr n v
  if chcrActive v then dmaTransfer n s else .next s

end Sys2Proof.Machine
end

