-- ==== Sys2Proof/Machine/Router.lean ====
section
/-!
DEFINITION. The address-space Router, `20_memory.md`: segment masking, region decode, the device window and the two
access primitives `MemRead` and `MemWrite` (R80, R81).
-/

namespace Sys2Proof.Machine

/-! ## Addresses -/

/-- `SEG_MASK[i]` (R71). -/
def segMask (i : BitVec 3) : Word :=
  match i.toNat with
  | 4 => 0x7FFFFFFF
  | 5 => 0x1FFFFFFF
  | _ => 0xFFFFFFFF

/-- `phys(a)`: "mask the address through the 8-entry segment-mask table indexed by the top 3 address bits" (R71). -/
def physOf (a : Word) : Word := a &&& segMask (a.extractLsb' 29 3)

/-- Whether an n-byte access at `a` is misaligned (R77): tested on the unmasked address. -/
def isMisaligned (a : Word) (n : Width) : Bool := a.toNat % n.bytes != 0

/-- Whether a physical address lies in a range. -/
def inRegion (r : Region) (p : Word) : Bool := decide (r.base ≤ p.toNat ∧ p.toNat < r.base + r.size)

/-- What a physical address is (R73). -/
inductive RegionKind where
  | ram
  | exp1
  | scratch
  | io
  | bios
  | outside
  deriving DecidableEq, Repr

/-- Region decode, "first match" (R73). -/
def regionOf (c : Config) (p : Word) : RegionKind :=
  if inRegion c.ramWindow p then .ram
  else if inRegion c.exp1 p then .exp1
  else if inRegion ⟨c.scratchBase, Config.scratchSize⟩ p then .scratch
  else if inRegion c.io p then .io
  else if inRegion c.bios p then .bios
  else .outside

/-- The byte offset of a physical address in main memory, "masked to its size" (R82). -/
def ramOffset (p : Word) : Nat := (p &&& ramMask).toNat

/-- The byte offset in the scratchpad (R83). -/
def scratchOffset (c : Config) (p : Word) : Nat := p.toNat - c.scratchBase

/-- The byte offset in the firmware (R84). -/
def biosOffset (c : Config) (p : Word) : Nat := p.toNat - c.bios.base

/-- A value cut to n bytes: `v[8n-1:0]`. -/
def truncWidth (n : Width) (v : Word) : Word :=
  match n with
  | .byte => v &&& 0xFF
  | .half => v &&& 0xFFFF
  | .word => v

/-! ## Device registers (R91) -/

/-- The mapped device registers. -/
inductive DevReg where
  | madr (n : ChannelId)
  | bcr (n : ChannelId)
  | chcr (n : ChannelId)
  | dpcr
  | dicr
  | gpuPort0
  | gpuPort1
  deriving DecidableEq, Repr

/-- The physical address of each mapped register (R91). -/
def DevReg.addr : DevReg → Word
  | .madr n => 0x1F801080 + 0x10 * BitVec.ofNat 32 n.val
  | .bcr n => 0x1F801084 + 0x10 * BitVec.ofNat 32 n.val
  | .chcr n => 0x1F801088 + 0x10 * BitVec.ofNat 32 n.val
  | .dpcr => 0x1F8010F0
  | .dicr => 0x1F8010F4
  | .gpuPort0 => 0x1F801810
  | .gpuPort1 => 0x1F801814

/-- Every mapped register. -/
def DevReg.all : List DevReg :=
  (List.finRange Config.dmaChannels).flatMap (fun n => [.madr n, .bcr n, .chcr n])
    ++ [.dpcr, .dicr, .gpuPort0, .gpuPort1]

/-- The mapped register whose 4 bytes hold `p`, if any: `p AND NOT 3` is its address (R90). -/
def devRegAt (p : Word) : Option DevReg := DevReg.all.find? fun r => r.addr == alignDown p
where
  /-- `p AND NOT 3`. -/
  alignDown (p : Word) : Word := p &&& ~~~3

/-- What a mapped register reads as (R91); a read has no side effect (R94). -/
def State.devRegRead (s : State) : DevReg → Word
  | .madr n => (s.channel n).madr.setWidth 32
  | .bcr n => (s.channel n).bcr
  | .chcr n => (s.channel n).chcr
  | .dpcr => s.dma.dpcr
  | .dicr => s.dma.dicrRead
  | .gpuPort0 => 0
  | .gpuPort1 => s.gpu.status

/-- What a 32-bit write to a mapped register does (R91). -/
def State.devRegWrite (s : State) (r : DevReg) (v : Word) : Result :=
  match r with
  | .madr n => .next (s.setMadr n (v.extractLsb' 0 24))
  | .bcr n => .next (s.setBcr n v)
  | .chcr n => chcrWrite n v s
  | .dpcr => .next { s with dma := { s.dma with dpcr := v } }
  | .dicr => .next { s with dma := s.dma.dicrWrite v }
  | .gpuPort0 => s.gp0 v
  | .gpuPort1 => s.gp1 v

/-- Append a dropped write to `dev_log` (R89, R90). -/
def State.logDropped (s : State) (a : Word) (n : Width) (v : Word) : State :=
  { s with devLog := s.devLog ++ [.droppedWrite a n v] }

/-- `DevRead(p, n)` (R90). -/
def State.devRead (s : State) (p : Word) (n : Width) : Except FatalReason Word :=
  match devRegAt p with
  | some r => if n = .word then .ok (s.devRegRead r) else .error (.unsupportedWidth p n)
  | none => .ok 0

/-- `DevWrite(p, n, v)` (R90). -/
def State.devWrite (s : State) (p : Word) (n : Width) (v : Word) : Result :=
  match devRegAt p with
  | some r => if n = .word then s.devRegWrite r v else s.stop (.unsupportedWidth p n)
  | none => .next (s.logDropped p n v)

/-! ## The access primitives -/

/-- `MemRead(a, n)` (R80).  A read never changes state (R94). -/
def State.memRead (s : State) (a : Word) (n : Width) : Except FatalReason Word :=
  if isMisaligned a n then .error (.misaligned a n)
  else
    let p := physOf a
    match regionOf s.cfg p with
    | .ram => .ok (s.ram.readLE (ramOffset p) n)
    | .exp1 => .ok (truncWidth n s.cfg.expReadStub)
    | .scratch => .ok (s.scratch.readLE (scratchOffset s.cfg p) n)
    | .io => s.devRead p n
    | .bios => .ok (s.bios.readLE (biosOffset s.cfg p) n)
    | .outside => .error (.unmappedAddress a)

/-- `MemWrite(a, n, v)` (R81). -/
def State.memWrite (s : State) (a : Word) (n : Width) (v : Word) : Result :=
  if isMisaligned a n then s.stop (.misaligned a n)
  else
    let p := physOf a
    match regionOf s.cfg p with
    | .ram => .next { s with ram := s.ram.writeLE (ramOffset p) n v }
    | .exp1 => .next (s.logDropped a n v)
    | .scratch => .next { s with scratch := s.scratch.writeLE (scratchOffset s.cfg p) n v }
    | .io => s.devWrite p n v
    | .bios => s.stop (.writeToFirmware a p)
    | .outside => s.stop (.unmappedAddress a)

end Sys2Proof.Machine
end

