-- ==== Sys2Proof/Machine/LoadStore.lean ====
section
/-!
DEFINITION. Loads and stores, `43_load_store.md` R250 to R266.
-/

namespace Sys2Proof.Machine

/-- `sr[16]`, IsC (R30, R251). -/
def State.isolated (s : State) : Bool := s.sr.getLsbD 16

/-- The shape of every load (R250, R251): nothing at all while IsC is set, before the address is computed; else read
through the Router and write `x[rt]`. -/
def State.loadFrom (s : State) (rt : Reg) (addr : Word) (n : Width) (f : Word → Word) : Result :=
  if s.isolated then .next s
  else
    match s.memRead addr n with
    | .ok v => .next (s.setReg rt (f v))
    | .error r => s.stop r

/-- The shape of every plain store (R250, R251). -/
def State.storeTo (s : State) (addr : Word) (n : Width) (v : Word) : Result :=
  if s.isolated then .next s else s.memWrite addr n v

/-- The shape of `swl` and `swr` (R263): a 32-bit read followed by a 32-bit write of the merged word. -/
def State.mergeTo (s : State) (addr : Word) (f : Word → Word) : Result :=
  if s.isolated then .next s
  else
    match s.memRead addr .word with
    | .ok m => s.memWrite addr .word (f m)
    | .error r => s.stop r

/-- `lb rt, imm(rs)` (R253). -/
def execLb (rt rs : Reg) (imm : Half) (s : State) : Result :=
  s.loadFrom rt (s.effectiveAddress rs imm) .byte sextByte

/-- `lbu rt, imm(rs)` (R254). -/
def execLbu (rt rs : Reg) (imm : Half) (s : State) : Result :=
  s.loadFrom rt (s.effectiveAddress rs imm) .byte zextByte

/-- `lh rt, imm(rs)` (R255). -/
def execLh (rt rs : Reg) (imm : Half) (s : State) : Result :=
  s.loadFrom rt (s.effectiveAddress rs imm) .half sextHalf

/-- `lhu rt, imm(rs)` (R256). -/
def execLhu (rt rs : Reg) (imm : Half) (s : State) : Result :=
  s.loadFrom rt (s.effectiveAddress rs imm) .half zextHalf

/-- `lw rt, imm(rs)` (R257). -/
def execLw (rt rs : Reg) (imm : Half) (s : State) : Result :=
  s.loadFrom rt (s.effectiveAddress rs imm) .word id

/-- `sb rt, imm(rs)` (R258). -/
def execSb (rt rs : Reg) (imm : Half) (s : State) : Result :=
  s.storeTo (s.effectiveAddress rs imm) .byte (truncWidth .byte (s.reg rt))

/-- `sh rt, imm(rs)` (R259). -/
def execSh (rt rs : Reg) (imm : Half) (s : State) : Result :=
  s.storeTo (s.effectiveAddress rs imm) .half (truncWidth .half (s.reg rt))

/-- `sw rt, imm(rs)` (R260). -/
def execSw (rt rs : Reg) (imm : Half) (s : State) : Result :=
  s.storeTo (s.effectiveAddress rs imm) .word (s.reg rt)

/-- `lwl rt, imm(rs)` (R261). -/
def execLwl (rt rs : Reg) (imm : Half) (s : State) : Result :=
  s.loadFrom rt (alignedWord (s.effectiveAddress rs imm)) .word
    (mergeLwl (laneOf (s.effectiveAddress rs imm)) (s.reg rt))

/-- `lwr rt, imm(rs)` (R262). -/
def execLwr (rt rs : Reg) (imm : Half) (s : State) : Result :=
  s.loadFrom rt (alignedWord (s.effectiveAddress rs imm)) .word
    (mergeLwr (laneOf (s.effectiveAddress rs imm)) (s.reg rt))

/-- `swl rt, imm(rs)` (R263). -/
def execSwl (rt rs : Reg) (imm : Half) (s : State) : Result :=
  s.mergeTo (alignedWord (s.effectiveAddress rs imm)) fun m =>
    mergeSwl (laneOf (s.effectiveAddress rs imm)) m (s.reg rt)

/-- `swr rt, imm(rs)` (R264). -/
def execSwr (rt rs : Reg) (imm : Half) (s : State) : Result :=
  s.mergeTo (alignedWord (s.effectiveAddress rs imm)) fun m =>
    mergeSwr (laneOf (s.effectiveAddress rs imm)) m (s.reg rt)

end Sys2Proof.Machine
end

