-- ==== Sys2Proof/Machine/Cycle.lean ====
section
/-!
DEFINITION. The parts of a step around the instruction itself, `60_exceptions.md` R410 and R411: the fetch, the
advance of the two program counters, the delay-slot epilogue; and placing a word where the next step runs it.
-/

namespace Sys2Proof.Machine

/-- The fetch, `MemRead(current_pc, 4)` (R95, R410); the cache-isolation bit does not affect it. -/
def State.fetch (s : State) : Except FatalReason Word := s.memRead s.currentPc .word

/-- `cia <- current_pc; current_pc <- next_pc; next_pc <- next_pc + 4` (R410). -/
def State.prologue (s : State) : State :=
  { s with cia := s.currentPc, currentPc := s.nextPc, nextPc := s.nextPc + 4 }

/-- `in_delay_slot <- executed_branch; executed_branch <- 0` (R410). -/
def State.epilogue (s : State) : State := { s with inDelaySlot := s.executedBranch, executedBranch := false }

/-- Decode the fetched word and execute it with `run`, then the epilogue (R410); an unknown word is Fatal (R131). -/
def State.runWord (s : State) (w : Word) (run : Instr → State → Result) : Result :=
  match decodeCpu w with
  | .ok i => Result.andThen (run i s.prologue) fun t => .next t.epilogue
  | .error _ => s.prologue.stop (.unknownInstruction s.currentPc w)

/-- One fetch-decode-execute cycle of a machine that has not halted (R410). -/
def State.cycle (s : State) (run : Instr → State → Result) : Result :=
  match s.fetch with
  | .ok w => s.runWord w run
  | .error r => s.stop r

/-! ## Placing a word to run next -/

/-- Put the word of a CPU instruction where the next fetch reads it: in main memory, scratchpad or firmware image,
whichever `current_pc` names.  At any other address there is no storage and nothing changes. -/
def State.placeAtPc (s : State) (w : Word) : State :=
  let p := physOf s.currentPc
  if isMisaligned s.currentPc .word then s
  else
    match regionOf s.cfg p with
    | .ram => { s with ram := s.ram.writeLE (ramOffset p) .word w }
    | .scratch => { s with scratch := s.scratch.writeLE (scratchOffset s.cfg p) .word w }
    | .bios => { s with bios := s.bios.writeLE (biosOffset s.cfg p) .word w }
    | .exp1 | .io | .outside => s

/-- Put `sw t1, 0(t0)` where the next fetch reads it, with the device register's address in t0, `w` in t1 and IsC
clear, so that the next step stores `w` to that register. -/
def State.placeStore (s : State) (r : DevReg) (w : Word) : State :=
  (({ s with sr := putField s.sr 16 (0 : BitVec 1) }.setReg 8 r.addr).setReg 9 w).placeAtPc (iWord 0x2B 8 9 0)

/-- Store `ws` one after another in main memory, the first at the word offset `o`. -/
def State.placeRamWords : List Word → Word → State → State
  | [], _, s => s
  | w :: ws, o, s => placeRamWords ws (listNext o) (s.setRamWord (o &&& ramWordMask) w)

/-- `chcr` for one block from main memory, upwards, at once: direction, enable and trigger (R43). -/
def chcrBlockFromRam : Word := 0x11000001

/-- Put a GP0 command where the next step hands all of it to its port (R350): one word by a store to the port; more
words by the store that starts an immediate block transfer of them on channel 2 (R315, R318).  The words stand in
main memory behind the offset that `current_pc` names. -/
def State.placeGp0 (s : State) : List Word → State
  | [w] => s.placeStore .gpuPort0 w
  | ws =>
    let o := listNext (physOf s.currentPc)
    (((State.placeRamWords ws o s).setMadr gpuChannel (low24 o)).setBcr gpuChannel (BitVec.ofNat 32 ws.length)).placeStore
      (.chcr gpuChannel) chcrBlockFromRam

/-- Put the instruction whose bits are `w` where the next step runs it (notes/assumptions/13.md). -/
def State.placeTableWord (s : State) (nbits w : Nat) : State :=
  let ws := tableWords nbits w
  let first := BitVec.ofNat 32 (w % 2 ^ nbits)
  match tableSpace nbits w with
  | .cpu => s.placeAtPc first
  | .gp1 => s.placeStore .gpuPort1 first
  | .gp0 =>
    match decode .gp0 ws with
    | .ok (i, _) => s.placeGp0 (ws.take (encode i).length)
    | .error _ => s.placeStore .gpuPort0 first

end Sys2Proof.Machine
end

