-- ==== Sys2Proof/Machine/Flags.lean ====
section
/-!
DEFINITION. The CPU has no condition codes, no carry and no overflow flag (`10_state.md` R27): what other machines
keep in flags is here the value of a predicate inside one instruction.  The overflow predicates are `40_alu.md` R152
and R154, the comparison results R160 and R161.
-/

namespace Sys2Proof.Machine

/-- The overflow predicate of `add` and `addi` on a sum `r` (R152): `((a XOR r) AND (b XOR r)) >> 31 = 1`. -/
def addOverflows (a b r : Word) : Bool := ((a ^^^ r) &&& (b ^^^ r)) >>> 31 == 1

/-- The overflow predicate of `sub` on a difference `r` (R154): `((a XOR b) AND (a XOR r)) >> 31 = 1`. -/
def subOverflows (a b r : Word) : Bool := ((a ^^^ b) &&& (a ^^^ r)) >>> 31 == 1

/-- 1 if `s32(a) < s32(b)`, else 0 (R160). -/
def setLessSigned (a b : Word) : Word := if a.toInt < b.toInt then 1 else 0

/-- 1 if `u32(a) < u32(b)`, else 0 (R161). -/
def setLessUnsigned (a b : Word) : Word := if a.toNat < b.toNat then 1 else 0

end Sys2Proof.Machine
end

