-- ==== Sys2Proof/Machine/Alu.lean ====
section
/-!
DEFINITION. The 24 ALU, shift and immediate instructions, `40_alu.md` R150 to R176.  Sources are read before the one
destination is written (R150); `add`, `addi` and `sub` write it before the overflow test (R151).
-/

namespace Sys2Proof.Machine

/-! ## Shared operations -/

/-- Write a result to its destination: what every instruction here ends in, or goes on from (R150). -/
def State.writeResult (s : State) (rd : Reg) (r : Word) : Result := .next (s.setReg rd r)

/-- Write a wrapped result first, then trap if it overflowed (R151). -/
def State.writeThenTrap (s : State) (rd : Reg) (r : Word) (overflows : Bool) : Result :=
  if overflows then (s.setReg rd r).overflowTrap else .next (s.setReg rd r)

/-! ## Register ALU -/

/-- `add rd, rs, rt` (R152). -/
def execAdd (rd rs rt : Reg) (s : State) : Result :=
  s.writeThenTrap rd (s.reg rs + s.reg rt) (addOverflows (s.reg rs) (s.reg rt) (s.reg rs + s.reg rt))

/-- `addu rd, rs, rt` (R153). -/
def execAddu (rd rs rt : Reg) (s : State) : Result := s.writeResult rd (s.reg rs + s.reg rt)

/-- `sub rd, rs, rt` (R154). -/
def execSub (rd rs rt : Reg) (s : State) : Result :=
  s.writeThenTrap rd (s.reg rs - s.reg rt) (subOverflows (s.reg rs) (s.reg rt) (s.reg rs - s.reg rt))

/-- `subu rd, rs, rt` (R155). -/
def execSubu (rd rs rt : Reg) (s : State) : Result := s.writeResult rd (s.reg rs - s.reg rt)

/-- `and rd, rs, rt` (R156). -/
def execAnd (rd rs rt : Reg) (s : State) : Result := s.writeResult rd (s.reg rs &&& s.reg rt)

/-- `or rd, rs, rt` (R157). -/
def execOr (rd rs rt : Reg) (s : State) : Result := s.writeResult rd (s.reg rs ||| s.reg rt)

/-- `xor rd, rs, rt` (R158). -/
def execXor (rd rs rt : Reg) (s : State) : Result := s.writeResult rd (s.reg rs ^^^ s.reg rt)

/-- `nor rd, rs, rt` (R159). -/
def execNor (rd rs rt : Reg) (s : State) : Result := s.writeResult rd (~~~(s.reg rs ||| s.reg rt))

/-- `slt rd, rs, rt` (R160). -/
def execSlt (rd rs rt : Reg) (s : State) : Result := s.writeResult rd (setLessSigned (s.reg rs) (s.reg rt))

/-- `sltu rd, rs, rt` (R161). -/
def execSltu (rd rs rt : Reg) (s : State) : Result := s.writeResult rd (setLessUnsigned (s.reg rs) (s.reg rt))

/-! ## Shifts -/

/-- `sll rd, rt, shamt` (R162). -/
def execSll (rd rt : Reg) (shamt : BitVec 5) (s : State) : Result :=
  s.writeResult rd (s.reg rt <<< shamt.toNat)

/-- `srl rd, rt, shamt` (R163). -/
def execSrl (rd rt : Reg) (shamt : BitVec 5) (s : State) : Result :=
  s.writeResult rd (s.reg rt >>> shamt.toNat)

/-- `sra rd, rt, shamt` (R164). -/
def execSra (rd rt : Reg) (shamt : BitVec 5) (s : State) : Result :=
  s.writeResult rd ((s.reg rt).sshiftRight shamt.toNat)

/-- `sllv rd, rt, rs` (R165). -/
def execSllv (rd rt rs : Reg) (s : State) : Result := s.writeResult rd (s.reg rt <<< s.shiftCount rs)

/-- `srlv rd, rt, rs` (R166). -/
def execSrlv (rd rt rs : Reg) (s : State) : Result := s.writeResult rd (s.reg rt >>> s.shiftCount rs)

/-- `srav rd, rt, rs` (R167). -/
def execSrav (rd rt rs : Reg) (s : State) : Result := s.writeResult rd ((s.reg rt).sshiftRight (s.shiftCount rs))

/-! ## Immediate ALU -/

/-- `addi rt, rs, imm` (R168). -/
def execAddi (rt rs : Reg) (imm : Half) (s : State) : Result :=
  s.writeThenTrap rt (s.reg rs + sext16 imm) (addOverflows (s.reg rs) (sext16 imm) (s.reg rs + sext16 imm))

/-- `addiu rt, rs, imm` (R169). -/
def execAddiu (rt rs : Reg) (imm : Half) (s : State) : Result := s.writeResult rt (s.reg rs + sext16 imm)

/-- `slti rt, rs, imm` (R170). -/
def execSlti (rt rs : Reg) (imm : Half) (s : State) : Result := s.writeResult rt (setLessSigned (s.reg rs) (sext16 imm))

/-- `sltiu rt, rs, imm` (R171). -/
def execSltiu (rt rs : Reg) (imm : Half) (s : State) : Result := s.writeResult rt (setLessUnsigned (s.reg rs) (sext16 imm))

/-- `andi rt, rs, imm` (R172). -/
def execAndi (rt rs : Reg) (imm : Half) (s : State) : Result := s.writeResult rt (s.reg rs &&& zext16 imm)

/-- `ori rt, rs, imm` (R173). -/
def execOri (rt rs : Reg) (imm : Half) (s : State) : Result := s.writeResult rt (s.reg rs ||| zext16 imm)

/-- `xori rt, rs, imm` (R174). -/
def execXori (rt rs : Reg) (imm : Half) (s : State) : Result := s.writeResult rt (s.reg rs ^^^ zext16 imm)

/-- `lui rt, imm` (R175). -/
def execLui (rt : Reg) (imm : Half) (s : State) : Result := s.writeResult rt (upper16 imm)

end Sys2Proof.Machine
end

