-- ==== Sys2Proof/Machine/BranchJump.lean ====
section
/-!
DEFINITION. Jumps, branches and the delay slot, `42_branch_jump.md` R220 to R237.  A control transfer writes `next_pc`,
never `current_pc` (R220).
-/

namespace Sys2Proof.Machine

/-- `BranchEntry()` (R221): the check precedes every other effect; a branch is marked taken or not taken. -/
def State.branchEntry (s : State) (body : State → State) : Result :=
  if s.inDelaySlot then s.stop (.branchInDelaySlot s.cia) else .next (body { s with executedBranch := true })

/-- `next_pc <- target` (R220). -/
def State.jumpTo (s : State) (target : Word) : State := { s with nextPc := target }

/-- A conditional branch's effect (R229). -/
def State.branchIf (s : State) (taken : Bool) (offset : Half) : State :=
  if taken then s.jumpTo (s.branchTarget offset) else s

/-- Write the link value to a register (R222). -/
def State.link (s : State) (rd : Reg) : State := s.setReg rd s.linkValue

/-- The sign tests on `s32(v)` (R231 to R234). -/
def isNegative (v : Word) : Bool := decide (v.toInt < 0)
def isPositive (v : Word) : Bool := decide (0 < v.toInt)

/-- `j target` (R225). -/
def execJ (target : BitVec 26) (s : State) : Result := s.branchEntry fun s => s.jumpTo (s.jumpTarget target)

/-- `jal target` (R226). -/
def execJal (target : BitVec 26) (s : State) : Result :=
  s.branchEntry fun s => (s.link linkReg).jumpTo (s.jumpTarget target)

/-- `jr rs` (R227). -/
def execJr (rs : Reg) (s : State) : Result := s.branchEntry fun s => s.jumpTo (s.reg rs)

/-- `jalr rd, rs` (R228): the source is read before the link is written. -/
def execJalr (rd rs : Reg) (s : State) : Result := s.branchEntry fun s => (s.link rd).jumpTo (s.reg rs)

/-- `beq rs, rt, offset` (R229). -/
def execBeq (rs rt : Reg) (offset : Half) (s : State) : Result :=
  s.branchEntry fun s => s.branchIf (s.reg rs == s.reg rt) offset

/-- `bne rs, rt, offset` (R230). -/
def execBne (rs rt : Reg) (offset : Half) (s : State) : Result :=
  s.branchEntry fun s => s.branchIf (s.reg rs != s.reg rt) offset

/-- `blez rs, offset` (R231). -/
def execBlez (rs : Reg) (offset : Half) (s : State) : Result :=
  s.branchEntry fun s => s.branchIf (!isPositive (s.reg rs)) offset

/-- `bgtz rs, offset` (R232). -/
def execBgtz (rs : Reg) (offset : Half) (s : State) : Result :=
  s.branchEntry fun s => s.branchIf (isPositive (s.reg rs)) offset

/-- `bltz rs, offset` (R233). -/
def execBltz (rs : Reg) (offset : Half) (s : State) : Result :=
  s.branchEntry fun s => s.branchIf (isNegative (s.reg rs)) offset

/-- `bgez rs, offset` (R234). -/
def execBgez (rs : Reg) (offset : Half) (s : State) : Result :=
  s.branchEntry fun s => s.branchIf (!isNegative (s.reg rs)) offset

/-- `bltzal rs, offset` (R235): the condition uses the old register, the link is written either way. -/
def execBltzal (rs : Reg) (offset : Half) (s : State) : Result :=
  s.branchEntry fun s => (s.link linkReg).branchIf (isNegative (s.reg rs)) offset

/-- `bgezal rs, offset` (R236). -/
def execBgezal (rs : Reg) (offset : Half) (s : State) : Result :=
  s.branchEntry fun s => (s.link linkReg).branchIf (!isNegative (s.reg rs)) offset

end Sys2Proof.Machine
end

