-- ==== Sys2Proof/Machine/GpuCommands.lean ====
section
/-!
DEFINITION. The GPU commands as instructions: the `gp0` and `gp1` rows of the opcode table.  A command's words are handed
to its port one by one, exactly as the stores or the DMA units that deliver them would (R350, R390), so a command met
while the port is buffering is data (R355, R357), as on the hardware.
-/

namespace Sys2Proof.Machine

/-! ## GP0 -/

/-- GP0 0x00 (R358). -/
def execGp0Nop (s : State) : Result := s.gp0Stream (encode .gp0Nop)

/-- GP0 0x01 (R359). -/
def execGp0CacheFlushStub (s : State) : Result := s.gp0Stream (encode .gp0CacheFlushStub)

/-- GP0 0x1F (R360). -/
def execGp0Interrupt (s : State) : Result := s.gp0Stream (encode .gp0Interrupt)

/-- GP0 0x28 (R371). -/
def execGp0MonoQuad (colour : BitVec 24) (v0 v1 v2 v3 : Word) (s : State) : Result :=
  s.gp0Stream (encode (.gp0MonoQuad colour v0 v1 v2 v3))

/-- GP0 0x30 (R372). -/
def execGp0ShadedTriangle (c0 : BitVec 24) (v0 c1 v1 c2 v2 : Word) (s : State) : Result :=
  s.gp0Stream (encode (.gp0ShadedTriangle c0 v0 c1 v1 c2 v2))

/-- GP0 0x38 (R373). -/
def execGp0ShadedQuad (c0 : BitVec 24) (v0 c1 v1 c2 v2 c3 v3 : Word) (s : State) : Result :=
  s.gp0Stream (encode (.gp0ShadedQuad c0 v0 c1 v1 c2 v2 c3 v3))

/-- GP0 0xA0 (R374). -/
def execGp0ImageLoad (low : BitVec 24) (dest size : Word) (s : State) : Result :=
  s.gp0Stream (encode (.gp0ImageLoad low dest size))

/-- GP0 0xE1 (R361). -/
def execGp0DrawMode (status : BitVec 11) (textureDisable flipX flipY : Bool) (s : State) : Result :=
  s.gp0Stream (encode (.gp0DrawMode status textureDisable flipX flipY))

/-- GP0 0xE2 (R362). -/
def execGp0TextureWindow (maskX maskY offX offY : BitVec 5) (s : State) : Result :=
  s.gp0Stream (encode (.gp0TextureWindow maskX maskY offX offY))

/-- GP0 0xE3 (R363). -/
def execGp0DrawAreaTopLeft (left top : BitVec 10) (s : State) : Result :=
  s.gp0Stream (encode (.gp0DrawAreaTopLeft left top))

/-- GP0 0xE4 (R364). -/
def execGp0DrawAreaBottomRight (right bottom : BitVec 10) (s : State) : Result :=
  s.gp0Stream (encode (.gp0DrawAreaBottomRight right bottom))

/-- GP0 0xE5 (R365). -/
def execGp0DrawOffset (x y : Int) (s : State) : Result := s.gp0Stream (encode (.gp0DrawOffset x y))

/-- GP0 0xE6 (R366). -/
def execGp0MaskBits (setMask checkMask : Bool) (s : State) : Result :=
  s.gp0Stream (encode (.gp0MaskBits setMask checkMask))

/-! ## GP1 -/

/-- GP1 0x00 (R392). -/
def execGp1SoftReset (s : State) : Result := s.gp1Stream (encode .gp1SoftReset)

/-- GP1 0x02 (R393). -/
def execGp1InterruptAcknowledge (s : State) : Result := s.gp1Stream (encode .gp1InterruptAcknowledge)

/-- GP1 0x03 (R394). -/
def execGp1DisplayEnable (off : Bool) (s : State) : Result := s.gp1Stream (encode (.gp1DisplayEnable off))

/-- GP1 0x04 (R395). -/
def execGp1DmaDirection (direction : BitVec 2) (s : State) : Result :=
  s.gp1Stream (encode (.gp1DmaDirection direction))

/-- GP1 0x05 (R396). -/
def execGp1DisplayOrigin (x : BitVec 10) (y : BitVec 9) (s : State) : Result :=
  s.gp1Stream (encode (.gp1DisplayOrigin x y))

/-- GP1 0x06 (R397). -/
def execGp1HorizontalRange (start stop : BitVec 12) (s : State) : Result :=
  s.gp1Stream (encode (.gp1HorizontalRange start stop))

/-- GP1 0x07 (R398). -/
def execGp1VerticalRange (start stop : BitVec 10) (s : State) : Result :=
  s.gp1Stream (encode (.gp1VerticalRange start stop))

/-- GP1 0x08 (R399). -/
def execGp1DisplayMode (hres1 : BitVec 2) (vres pal depth24 interlace hres2 reverse : Bool) (s : State) : Result :=
  s.gp1Stream (encode (.gp1DisplayMode hres1 vres pal depth24 interlace hres2 reverse))

end Sys2Proof.Machine
end

