-- ==== Sys2Proof/Machine/MulDiv.lean ====
section
/-!
DEFINITION. Multiply, divide and the hi/lo moves, `41_muldiv.md` R200 to R209.  Operands become integers, the exact result
is computed, and it is narrowed at the end.
-/

namespace Sys2Proof.Machine

/-- Put a 64-bit two's complement product into `hi` and `lo` (R201, R202). -/
def State.setProduct (s : State) (p : BitVec 64) : State := s.setHiLo (p.extractLsb' 32 32) (p.extractLsb' 0 32)

/-- `mult rs, rt` (R201). -/
def execMult (rs rt : Reg) (s : State) : Result :=
  .next (s.setProduct (BitVec.ofInt 64 ((s.reg rs).toInt * (s.reg rt).toInt)))

/-- `multu rs, rt` (R202). -/
def execMultu (rs rt : Reg) (s : State) : Result :=
  .next (s.setProduct (BitVec.ofNat 64 ((s.reg rs).toNat * (s.reg rt).toNat)))

/-- `hi` and `lo` after a signed division (R203). -/
def divSigned (a b : Word) : Word × Word :=
  if b = 0 then (a, if 0 ≤ a.toInt then 0xFFFFFFFF else 1)
  else if a = 0x80000000 ∧ b = 0xFFFFFFFF then (0, 0x80000000)
  else
    let q := a.toInt.tdiv b.toInt
    (BitVec.ofInt 32 (a.toInt - q * b.toInt), BitVec.ofInt 32 q)

/-- `hi` and `lo` after an unsigned division (R204). -/
def divUnsigned (a b : Word) : Word × Word :=
  if b = 0 then (a, 0xFFFFFFFF)
  else (BitVec.ofNat 32 (a.toNat % b.toNat), BitVec.ofNat 32 (a.toNat / b.toNat))

/-- `div rs, rt` (R203). -/
def execDiv (rs rt : Reg) (s : State) : Result :=
  .next (s.setHiLo (divSigned (s.reg rs) (s.reg rt)).1 (divSigned (s.reg rs) (s.reg rt)).2)

/-- `divu rs, rt` (R204). -/
def execDivu (rs rt : Reg) (s : State) : Result :=
  .next (s.setHiLo (divUnsigned (s.reg rs) (s.reg rt)).1 (divUnsigned (s.reg rs) (s.reg rt)).2)

/-- `mfhi rd` (R205). -/
def execMfhi (rd : Reg) (s : State) : Result := .next (s.setReg rd s.hi)

/-- `mthi rs` (R206). -/
def execMthi (rs : Reg) (s : State) : Result := .next (s.setHiLo (s.reg rs) s.lo)

/-- `mflo rd` (R207). -/
def execMflo (rd : Reg) (s : State) : Result := .next (s.setReg rd s.lo)

/-- `mtlo rs` (R209). -/
def execMtlo (rs : Reg) (s : State) : Result := .next (s.setHiLo s.hi (s.reg rs))

end Sys2Proof.Machine
end

