-- ==== Sys2Proof/Machine/System.lean ====
section
/-!
DEFINITION. System instructions and coprocessor 0, `44_system_cop0.md` R280 to R289.  None is privileged (R280, R422).
-/

namespace Sys2Proof.Machine

/-- The three coprocessor-0 registers (R281). -/
inductive Cop0Reg where
  | sr
  | cause
  | epc
  deriving DecidableEq, Repr

/-- The register a number names (R281). -/
def cop0Reg (rd : Reg) : Option Cop0Reg :=
  match rd.toNat with
  | 12 => some .sr
  | 13 => some .cause
  | 14 => some .epc
  | _ => none

/-- What `mfc0` reads (R281): all 32 bits. -/
def State.cop0Read (s : State) : Cop0Reg → Word
  | .sr => s.sr
  | .cause => s.cause
  | .epc => s.epc

/-- A write to `cause` (R286): Fatal unless zero, and then per `CAUSE_WRITE_ZERO`. -/
def State.causeWrite (s : State) (v : Word) : Result :=
  if v ≠ 0 then s.stop (.cop0CauseWrite s.cia v)
  else
    match s.cfg.causeWriteZero with
    | .ignore => .next s
    | .clear => .next { s with cause := 0 }

/-- What `mtc0` writes (R286). -/
def State.cop0Write (s : State) (r : Cop0Reg) (v : Word) : Result :=
  match r with
  | .sr => .next { s with sr := v }
  | .cause => s.causeWrite v
  | .epc => .next { s with epc := v }

/-- `syscall` (R282). -/
def execSyscall (s : State) : Result := s.raise codeSys

/-- `break` (R283). -/
def execBreak (s : State) : Result := s.raise codeBp

/-- `mfc0 rt, $rd` (R285). -/
def execMfc0 (rt rd : Reg) (s : State) : Result :=
  match cop0Reg rd with
  | some r => .next (s.setReg rt (s.cop0Read r))
  | none => s.stop (.unknownCop0Register s.cia rd)

/-- `mtc0 rt, $rd` (R286). -/
def execMtc0 (rt rd : Reg) (s : State) : Result :=
  match cop0Reg rd with
  | some r => s.cop0Write r (s.reg rt)
  | none => s.stop (.unknownCop0Register s.cia rd)

/-- `rfe` (R287): no program counter, `cause` or `epc` changes. -/
def execRfe (s : State) : Result := .next s.returnFromException

end Sys2Proof.Machine
end

