-- ==== Sys2Proof/Machine/Dispatch.lean ====
section
/-!
DEFINITION. The dispatch of every instruction to its meaning, one arm per constructor of `Instr`.
-/

namespace Sys2Proof.Machine

def exec (i : Instr) (s : State) : Host.Outcome State Fault Refusal :=
  match i with
  -- the cpu rows
  | .add rd rs rt => Sys2Proof.Machine.execAdd rd rs rt s
  | .addu rd rs rt => Sys2Proof.Machine.execAddu rd rs rt s
  | .sub rd rs rt => Sys2Proof.Machine.execSub rd rs rt s
  | .subu rd rs rt => Sys2Proof.Machine.execSubu rd rs rt s
  | .and rd rs rt => Sys2Proof.Machine.execAnd rd rs rt s
  | .or rd rs rt => Sys2Proof.Machine.execOr rd rs rt s
  | .xor rd rs rt => Sys2Proof.Machine.execXor rd rs rt s
  | .nor rd rs rt => Sys2Proof.Machine.execNor rd rs rt s
  | .slt rd rs rt => Sys2Proof.Machine.execSlt rd rs rt s
  | .sltu rd rs rt => Sys2Proof.Machine.execSltu rd rs rt s
  | .sll rd rt shamt => Sys2Proof.Machine.execSll rd rt shamt s
  | .srl rd rt shamt => Sys2Proof.Machine.execSrl rd rt shamt s
  | .sra rd rt shamt => Sys2Proof.Machine.execSra rd rt shamt s
  | .sllv rd rt rs => Sys2Proof.Machine.execSllv rd rt rs s
  | .srlv rd rt rs => Sys2Proof.Machine.execSrlv rd rt rs s
  | .srav rd rt rs => Sys2Proof.Machine.execSrav rd rt rs s
  | .addi rt rs imm => Sys2Proof.Machine.execAddi rt rs imm s
  | .addiu rt rs imm => Sys2Proof.Machine.execAddiu rt rs imm s
  | .slti rt rs imm => Sys2Proof.Machine.execSlti rt rs imm s
  | .sltiu rt rs imm => Sys2Proof.Machine.execSltiu rt rs imm s
  | .andi rt rs imm => Sys2Proof.Machine.execAndi rt rs imm s
  | .ori rt rs imm => Sys2Proof.Machine.execOri rt rs imm s
  | .xori rt rs imm => Sys2Proof.Machine.execXori rt rs imm s
  | .lui rt imm => Sys2Proof.Machine.execLui rt imm s
  | .mult rs rt => Sys2Proof.Machine.execMult rs rt s
  | .multu rs rt => Sys2Proof.Machine.execMultu rs rt s
  | .div rs rt => Sys2Proof.Machine.execDiv rs rt s
  | .divu rs rt => Sys2Proof.Machine.execDivu rs rt s
  | .mfhi rd => Sys2Proof.Machine.execMfhi rd s
  | .mthi rs => Sys2Proof.Machine.execMthi rs s
  | .mflo rd => Sys2Proof.Machine.execMflo rd s
  | .mtlo rs => Sys2Proof.Machine.execMtlo rs s
  | .j target => Sys2Proof.Machine.execJ target s
  | .jal target => Sys2Proof.Machine.execJal target s
  | .jr rs => Sys2Proof.Machine.execJr rs s
  | .jalr rd rs => Sys2Proof.Machine.execJalr rd rs s
  | .beq rs rt offset => Sys2Proof.Machine.execBeq rs rt offset s
  | .bne rs rt offset => Sys2Proof.Machine.execBne rs rt offset s
  | .blez rs offset => Sys2Proof.Machine.execBlez rs offset s
  | .bgtz rs offset => Sys2Proof.Machine.execBgtz rs offset s
  | .bltz rs offset => Sys2Proof.Machine.execBltz rs offset s
  | .bgez rs offset => Sys2Proof.Machine.execBgez rs offset s
  | .bltzal rs offset => Sys2Proof.Machine.execBltzal rs offset s
  | .bgezal rs offset => Sys2Proof.Machine.execBgezal rs offset s
  | .lb rt rs imm => Sys2Proof.Machine.execLb rt rs imm s
  | .lbu rt rs imm => Sys2Proof.Machine.execLbu rt rs imm s
  | .lh rt rs imm => Sys2Proof.Machine.execLh rt rs imm s
  | .lhu rt rs imm => Sys2Proof.Machine.execLhu rt rs imm s
  | .lw rt rs imm => Sys2Proof.Machine.execLw rt rs imm s
  | .sb rt rs imm => Sys2Proof.Machine.execSb rt rs imm s
  | .sh rt rs imm => Sys2Proof.Machine.execSh rt rs imm s
  | .sw rt rs imm => Sys2Proof.Machine.execSw rt rs imm s
  | .lwl rt rs imm => Sys2Proof.Machine.execLwl rt rs imm s
  | .lwr rt rs imm => Sys2Proof.Machine.execLwr rt rs imm s
  | .swl rt rs imm => Sys2Proof.Machine.execSwl rt rs imm s
  | .swr rt rs imm => Sys2Proof.Machine.execSwr rt rs imm s
  | .syscall => Sys2Proof.Machine.execSyscall s
  | .brk => Sys2Proof.Machine.execBreak s
  | .mfc0 rt rd => Sys2Proof.Machine.execMfc0 rt rd s
  | .mtc0 rt rd => Sys2Proof.Machine.execMtc0 rt rd s
  | .rfe => Sys2Proof.Machine.execRfe s
  -- the gp0 rows
  | .gp0Nop => Sys2Proof.Machine.execGp0Nop s
  | .gp0CacheFlushStub => Sys2Proof.Machine.execGp0CacheFlushStub s
  | .gp0Interrupt => Sys2Proof.Machine.execGp0Interrupt s
  | .gp0MonoQuad colour v0 v1 v2 v3 => Sys2Proof.Machine.execGp0MonoQuad colour v0 v1 v2 v3 s
  | .gp0ShadedTriangle c0 v0 c1 v1 c2 v2 => Sys2Proof.Machine.execGp0ShadedTriangle c0 v0 c1 v1 c2 v2 s
  | .gp0ShadedQuad c0 v0 c1 v1 c2 v2 c3 v3 => Sys2Proof.Machine.execGp0ShadedQuad c0 v0 c1 v1 c2 v2 c3 v3 s
  | .gp0ImageLoad low dest size => Sys2Proof.Machine.execGp0ImageLoad low dest size s
  | .gp0DrawMode status textureDisable flipX flipY => Sys2Proof.Machine.execGp0DrawMode status textureDisable flipX flipY s
  | .gp0TextureWindow maskX maskY offX offY => Sys2Proof.Machine.execGp0TextureWindow maskX maskY offX offY s
  | .gp0DrawAreaTopLeft left top => Sys2Proof.Machine.execGp0DrawAreaTopLeft left top s
  | .gp0DrawAreaBottomRight right bottom => Sys2Proof.Machine.execGp0DrawAreaBottomRight right bottom s
  | .gp0DrawOffset x y => Sys2Proof.Machine.execGp0DrawOffset x y s
  | .gp0MaskBits setMask checkMask => Sys2Proof.Machine.execGp0MaskBits setMask checkMask s
  -- the gp1 rows
  | .gp1SoftReset => Sys2Proof.Machine.execGp1SoftReset s
  | .gp1InterruptAcknowledge => Sys2Proof.Machine.execGp1InterruptAcknowledge s
  | .gp1DisplayEnable off => Sys2Proof.Machine.execGp1DisplayEnable off s
  | .gp1DmaDirection direction => Sys2Proof.Machine.execGp1DmaDirection direction s
  | .gp1DisplayOrigin x y => Sys2Proof.Machine.execGp1DisplayOrigin x y s
  | .gp1HorizontalRange start stop => Sys2Proof.Machine.execGp1HorizontalRange start stop s
  | .gp1VerticalRange start stop => Sys2Proof.Machine.execGp1VerticalRange start stop s
  | .gp1DisplayMode hres1 vres pal depth24 interlace hres2 reverse => Sys2Proof.Machine.execGp1DisplayMode hres1 vres pal depth24 interlace hres2 reverse s

end Sys2Proof.Machine
end

