-- ==== Sys2Proof/Machine/HostActions.lean ====
section
/-!
DEFINITION. What the host may do to the state outside a step, `70_reset_and_hazards.md` R447: preset main memory before
the first step and sideload an executable between two steps.  Supplying `BIOS_IMAGE` (R446) is `State.resetWith`.
-/

namespace Sys2Proof.Machine

/-- `ram[(dest + i) AND 0x1FFFFF] <- bytes[i]` for every i (R447). -/
def copyToRam : Memory → Word → List Byte → Memory
  | m, _, [] => m
  | m, dest, b :: bs => copyToRam (m.write (dest &&& ramMask).toNat b) (dest + 1) bs

/-- Preset bytes of main memory before the first step (R447). -/
def State.hostPreset (s : State) (dest : Word) (bytes : List Byte) : State :=
  { s with ram := copyToRam s.ram dest bytes }

/-- `HostSideload(entry, gp, sp, dest, bytes)` (R447). -/
def State.hostSideload (s : State) (entry gp sp dest : Word) (bytes : List Byte) : State :=
  { (((s.hostPreset dest bytes).setReg 28 gp).setReg 29 sp).setReg 30 sp with
    currentPc := entry
    nextPc := entry + 4
    executedBranch := false
    inDelaySlot := false }

end Sys2Proof.Machine
end

