-- ==== Sys2Proof/Machine/Step.lean ====
section
/-!
DEFINITION. The one transition of the machine, `60_exceptions.md` R410: one fetch-decode-execute cycle; a halted
machine has none (R424).
-/

namespace Sys2Proof.Machine

/-- `step()` (R410). -/
def step (s : State) : Host.Outcome State Fault Refusal :=
  match s.halted with
  | some r => .refused (.halted r)
  | none => s.cycle exec

/-- `s` with the instruction whose bits are `w` placed so that the very next step runs it
(notes/assumptions/13.md). -/
def State.withFetchWord (s : State) (nbits w : Nat) : State := s.placeTableWord nbits w

end Sys2Proof.Machine
end

