-- ==== Sys2Proof/Safety.lean ====
section
/-!
DEFINITION. The terms statements about the core use: the invariant of a run (R60, R326, the memories' canonical form,
the hard-wired and constant bits), and frames, which say what an operation leaves alone.
-/

namespace Sys2Proof

/-! ## Kinds of instruction -/

/-- The five stores, the only instructions that write through the Router (R252). -/
def Instr.isStore : Instr → Bool
  | .sb .. | .sh .. | .sw .. | .swl .. | .swr .. => true
  | _ => false

/-- The twelve loads and stores of `43_load_store.md` (R250). -/
def Instr.isAccess : Instr → Bool
  | .lb .. | .lbu .. | .lh .. | .lhu .. | .lw .. | .lwl .. | .lwr .. => true
  | i => Instr.isStore i

/-- The twelve control transfers of `42_branch_jump.md` (R221). -/
def Instr.isTransfer : Instr → Bool
  | .j _ | .jal _ | .jr _ | .jalr .. | .beq .. | .bne .. | .blez .. | .bgtz .. | .bltz .. | .bgez .. | .bltzal ..
  | .bgezal .. => true
  | _ => false

/-- The five instructions that can raise an exception (R414). -/
def Instr.canRaise : Instr → Bool
  | .syscall | .brk | .add .. | .sub .. | .addi .. => true
  | _ => false

/-- The six instructions that write `hi` or `lo` (R23). -/
def Instr.writesHiLo : Instr → Bool
  | .mult .. | .multu .. | .div .. | .divu .. | .mthi _ | .mtlo _ => true
  | _ => false

end Sys2Proof

namespace Sys2Proof.Machine

/-! ## Invariant -/

/-- R60, word for word: the GP0 buffering state between steps. -/
abbrev Gpu.BufferingInv (g : Gpu) : Prop :=
  match g.mode with
  | .idle => g.fetched = 0 ∧ g.required = 0
  | .bufferingParams =>
    1 ≤ g.fetched.toNat ∧ g.fetched.toNat < g.required.toNat ∧ g.required.toNat ≤ 8
      ∧ (g.opcode = 0x28 ∨ g.opcode = 0x30 ∨ g.opcode = 0x38 ∨ g.opcode = 0xA0)
      ∧ gp0Op g.buf[0] = g.opcode
  | .bufferingTextureData => g.fetched.toNat < g.required.toNat

/-- R326: between steps no channel is active. -/
abbrev Dma.NoneActive (d : Dma) : Prop := ∀ n : ChannelId, chcrActive (d.channel n).chcr = false

/-- R51, R402: the status bits that no rule writes hold what they held at reset, the ready mask. -/
abbrev Gpu.ConstantBits (c : Config) (g : Gpu) : Prop := g.status &&& ~~~Config.statusWritten = c.gpuReadyMask

/-- The three memories are in canonical form and inside their sizes. -/
abbrev State.MemoriesWf (s : State) : Prop :=
  (s.ram.wf ∧ s.ram.within Config.ramSize)
  ∧ (s.scratch.wf ∧ s.scratch.within Config.scratchSize)
  ∧ (s.bios.wf ∧ s.bios.within s.cfg.bios.size)

/-- What holds between the steps of every run. -/
abbrev State.Inv (s : State) : Prop :=
  s.cfg.WellFormed
  ∧ s.halted = none
  ∧ s.executedBranch = false
  ∧ s.regs[0] = 0
  ∧ s.MemoriesWf
  ∧ s.gpu.BufferingInv
  ∧ s.gpu.ConstantBits s.cfg
  ∧ s.dma.NoneActive

/-! ## Frames -/

/-- Every byte the Router can read, reads as before. -/
abbrev SameBytes (s t : State) : Prop := ∀ a : Word, t.memRead a .byte = s.memRead a .byte

/-- Every general register but `rd` reads as before. -/
abbrev SameRegsBut (rd : Reg) (s t : State) : Prop := ∀ r : Reg, r ≠ rd → t.reg r = s.reg r

/-- What a register reads after `v` was written to it: register 0 reads 0 (R21). -/
def written (rd : Reg) (v : Word) : Word := if rd = 0 then 0 else v

/-- `t` is `s` with `v` written to the general register `rd` and nothing else changed: no other register, program
counter, flag bit, coprocessor-0 register, byte of memory, device register or log. -/
abbrev OnlyRegister (rd : Reg) (v : Word) (s t : State) : Prop :=
  t.reg rd = written rd v ∧ SameRegsBut rd s t ∧ { t with regs := s.regs } = s ∧ SameBytes s t

/-- `t` is `s` with `hi` and `lo` set and nothing else changed. -/
abbrev OnlyHiLo (h l : Word) (s t : State) : Prop :=
  t.hi = h ∧ t.lo = l ∧ { t with hi := s.hi, lo := s.lo } = s ∧ SameBytes s t

/-- `t` is `s` after a control transfer to `next_pc = target`: `executed_branch` is set, and apart from these two
and the general registers nothing changed.  `current_pc` in particular is as before (R220). -/
abbrev OnlyBranch (target : Word) (s t : State) : Prop :=
  t.nextPc = target ∧ t.executedBranch = true
  ∧ { t with nextPc := s.nextPc, executedBranch := s.executedBranch, regs := s.regs } = s ∧ SameBytes s t

/-- `t` is `s` but for main memory. -/
abbrev OnlyRam (s t : State) : Prop := { t with ram := s.ram } = s

/-- `t` is `s` but for the scratchpad. -/
abbrev OnlyScratch (s t : State) : Prop := { t with scratch := s.scratch } = s

/-- `t` is `s` but for the GPU. -/
abbrev OnlyGpu (s t : State) : Prop := { t with gpu := s.gpu } = s

/-- The Fatal stop of `s` for a reason: nothing but `halted` is written (R424). -/
abbrev stopped (s : State) (r : FatalReason) : Result := .fault (.fatal r { s with halted := some r })

/-! ## Shapes of a conclusion -/

/-- The operation ends in a next state, of which `P` holds. -/
abbrev Completes (r : Result) (P : State → Prop) : Prop := ∃ t, r = .next t ∧ P t

/-- Every CPU word with these key bits is this instruction, its operands read from the word (R132, R135). -/
abbrev Selects (mask key : Word) (f : Word → Instr) : Prop := ∀ w : Word, w &&& mask = key → decodeCpu w = .ok (f w)

/-- Every GP0 word with this opcode is this one-word command (R352). -/
abbrev SelectsGp0 (op : BitVec 8) (f : Word → Instr) : Prop :=
  ∀ (w : Word) (ws : List Word), w.extractLsb' 24 8 = op → decode .gp0 (w :: ws) = .ok (f w, ws)

/-- Every GP1 word with this opcode modulo 64 is this command (R390). -/
abbrev SelectsGp1 (op : BitVec 6) (f : Word → Instr) : Prop :=
  ∀ (w : Word) (ws : List Word), w.extractLsb' 24 6 = op → decode .gp1 (w :: ws) = .ok (f w, ws)

/-- `t` is `w` after exception entry with `code` (R416), the new `sr` given by its three parts: bits 31:6 as before,
the old bits 3:0, two zeros. -/
abbrev TakesException (code : BitVec 5) (w t : State) : Prop :=
  t.sr = w.sr.extractLsb' 6 26 ++ w.sr.extractLsb' 0 4 ++ (0 : BitVec 2)
  ∧ t.cause = code.setWidth 32 <<< 2
  ∧ t.epc = w.cia
  ∧ t.currentPc = (if w.sr.getLsbD 22 then w.cfg.vecBoot else w.cfg.vecGeneral)
  ∧ t.nextPc = t.currentPc + 4
  ∧ { t with sr := w.sr, cause := w.cause, epc := w.epc, currentPc := w.currentPc, nextPc := w.nextPc } = w
  ∧ SameBytes w t

/-- An instruction that writes `v`, wrapped, to `rd` and then traps if `v` does not fit (R151). -/
abbrev WritesThenTraps (r : Result) (rd : Reg) (v : Int) (s : State) : Prop :=
  ∃ w, OnlyRegister rd (BitVec.ofInt 32 v) s w
    ∧ (-2 ^ 31 ≤ v ∧ v < 2 ^ 31 → r = .next w)
    ∧ (¬(-2 ^ 31 ≤ v ∧ v < 2 ^ 31) → s.cfg.ovfMode = .exception → s.inDelaySlot = false →
        Completes r (TakesException 12 w))
    ∧ (¬(-2 ^ 31 ≤ v ∧ v < 2 ^ 31) → s.cfg.ovfMode = .exception → s.inDelaySlot = true →
        r = stopped w (.exceptionInDelaySlot s.cia 12))
    ∧ (¬(-2 ^ 31 ≤ v ∧ v < 2 ^ 31) → s.cfg.ovfMode = .fatal → r = stopped w (.overflow s.cia))

/-- A conditional branch on `c` (R229): outside a delay slot it goes to its target or on, and is marked as executed
either way; in one it stops (R221). -/
abbrev BranchesOn (r : Result) (c : Bool) (offset : Half) (s : State) (link : Bool) : Prop :=
  (s.inDelaySlot = false → Completes r fun t =>
    OnlyBranch (if c then s.currentPc + (offset.signExtend 32 <<< 2) else s.nextPc) s t
    ∧ (if link then t.reg 31 = s.nextPc ∧ SameRegsBut 31 s t else ∀ i, t.reg i = s.reg i))
  ∧ (s.inDelaySlot = true → r = stopped s (.branchInDelaySlot s.cia))

/-- A load of `n` bytes at `a` into `rt`, `f` applied to the value read (R250 to R252). -/
abbrev LoadsFrom (r : Result) (rt : Reg) (a : Word) (n : Width) (f : Word → Word) (s : State) : Prop :=
  (s.sr.getLsbD 16 = true → r = .next s)
  ∧ (s.sr.getLsbD 16 = false → ∀ v, s.memRead a n = .ok v → Completes r (OnlyRegister rt (f v) s))
  ∧ (s.sr.getLsbD 16 = false → ∀ e, s.memRead a n = .error e → r = stopped s e)

/-- `t` is `s` with the `n` low bytes of `v` stored in main memory at the offset of `a`: every byte of the address
space, mirrors included, reads as stored there and as before everywhere else. -/
abbrev StoredInRam (a : Word) (n : Width) (v : Word) (s t : State) : Prop :=
  OnlyRam s t
  ∧ ∀ b : Word, t.memRead b .byte =
      if regionOf s.cfg (physOf b) = .ram ∧ ramOffset (physOf a) ≤ ramOffset (physOf b)
          ∧ ramOffset (physOf b) < ramOffset (physOf a) + n.bytes then
        .ok ((v.extractLsb' (8 * (ramOffset (physOf b) - ramOffset (physOf a))) 8).setWidth 32)
      else s.memRead b .byte

/-- `t` is `s` with the `n` low bytes of `v` stored in the scratchpad at the offset of `a`. -/
abbrev StoredInScratch (a : Word) (n : Width) (v : Word) (s t : State) : Prop :=
  OnlyScratch s t
  ∧ ∀ b : Word, t.memRead b .byte =
      if regionOf s.cfg (physOf b) = .scratch ∧ scratchOffset s.cfg (physOf a) ≤ scratchOffset s.cfg (physOf b)
          ∧ scratchOffset s.cfg (physOf b) < scratchOffset s.cfg (physOf a) + n.bytes then
        .ok ((v.extractLsb' (8 * (scratchOffset s.cfg (physOf b) - scratchOffset s.cfg (physOf a))) 8).setWidth 32)
      else s.memRead b .byte

/-- A store into main memory or the scratchpad completes there, with the frame of the region it falls in. -/
abbrev StoresIn (r : Result) (a : Word) (n : Width) (v : Word) (s : State) : Prop :=
  (regionOf s.cfg (physOf a) = .ram → Completes r (StoredInRam a n v s))
  ∧ (regionOf s.cfg (physOf a) = .scratch → Completes r (StoredInScratch a n v s))

/-- The GPU registers that are not part of the buffering state (R59) nor of the output list (R58) are as before. -/
abbrev OnlyBuffering (g h : Gpu) : Prop :=
  { h with out := g.out, mode := g.mode, buf := g.buf, fetched := g.fetched, required := g.required,
           opcode := g.opcode } = g

/-- The vertex of a vertex word (R370): x low, y high, both signed. -/
def vertexOf (v : Word) (colour : BitVec 24) : Vertex :=
  ⟨(v.extractLsb' 0 16).toInt, (v.extractLsb' 16 16).toInt, colour⟩

/-- A draw command that completes in Idle: these events, once, and the port idle again (R356). -/
abbrev Draws (r : Result) (es : List GpuEvent) (s : State) : Prop :=
  Completes r fun t =>
    OnlyGpu s t ∧ SameBytes s t ∧ t.gpu.out = s.gpu.out ++ es
    ∧ t.gpu.mode = .idle ∧ t.gpu.fetched = 0 ∧ t.gpu.required = 0 ∧ OnlyBuffering s.gpu t.gpu

/-- A command that changes only the GPU, so that every byte reads as before: its new registers are `g`. -/
abbrev SetsGpu (r : Result) (s : State) (P : Gpu → Prop) : Prop :=
  Completes r fun t => OnlyGpu s t ∧ SameBytes s t ∧ P t.gpu

end Sys2Proof.Machine
end

