-- ==== Sys2Proof/Certificates/Slice0/Obligations.lean ====
section
/-!
DEFINITION. The statements to be proved about the core, one for each entry of OBLIGATIONS.json.
They speak of every state, so of every value of the OPEN parameters, unless a hypothesis says otherwise.
-/

open Sys2Proof Sys2Proof.Machine

/-! ## Decoding and encoding -/

/-- Decoding what the encoder wrote gives the instruction back, with every operand, and leaves the rest of the stream
(R121 to R133, R352, R390). -/
def Obligations.DecodeInvertsEncode : Prop :=
  ∀ (i : Instr) (rest : List Word), i.wellFormed = true → decode i.space (encode i ++ rest) = .ok (i, rest)

/-- R121: the place and width of every field of a CPU word. -/
def Obligations.FieldsOfAWord : Prop :=
  ∀ w : Word,
    (opField w).toNat = w.toNat / 2 ^ 26
    ∧ (rsField w).toNat = w.toNat / 2 ^ 21 % 2 ^ 5
    ∧ (rtField w).toNat = w.toNat / 2 ^ 16 % 2 ^ 5
    ∧ (rdField w).toNat = w.toNat / 2 ^ 11 % 2 ^ 5
    ∧ (shamtField w).toNat = w.toNat / 2 ^ 6 % 2 ^ 5
    ∧ (functField w).toNat = w.toNat % 2 ^ 6
    ∧ (immField w).toNat = w.toNat % 2 ^ 16
    ∧ (targetField w).toNat = w.toNat % 2 ^ 26

/-- R135: a word is a CPU instruction of some row exactly when it satisfies that row's `match` and `mask`, and it is
rejected by name when it satisfies no row's. -/
def Obligations.CpuWordsFollowTheTable : Prop :=
  ∀ w : Word,
    (∀ i, decodeCpu w = .ok i → i.space = .cpu ∧ w &&& i.tableMask = i.tableMatch)
    ∧ (∀ j : Instr, j.space = .cpu → w &&& j.tableMask = j.tableMatch →
        ∃ i, decodeCpu w = .ok i ∧ i.tableMask = j.tableMask ∧ i.tableMatch = j.tableMatch)
    ∧ ((∀ j : Instr, j.space = .cpu → w &&& j.tableMask ≠ j.tableMatch) →
        decodeCpu w = .error (.unknownInstruction w))

/-- R135 for the two GPU ports: the first word of a GP0 command and a GP1 word satisfy their row, and a word of no
row is rejected by name (R368, R400). -/
def Obligations.GpuWordsFollowTheTable : Prop :=
  ∀ (w : Word) (ws : List Word),
    (∀ i rest, decode .gp0 (w :: ws) = .ok (i, rest) → i.space = .gp0 ∧ w &&& i.tableMask = i.tableMatch)
    ∧ (decode .gp0 (w :: ws) = .error (.unknownGp0 w) ↔
        ∀ j : Instr, j.space = .gp0 → w &&& j.tableMask ≠ j.tableMatch)
    ∧ (∀ i rest, decode .gp1 (w :: ws) = .ok (i, rest) → i.space = .gp1 ∧ w &&& i.tableMask = i.tableMatch)
    ∧ (decode .gp1 (w :: ws) = .error (.unknownGp1 w) ↔
        ∀ j : Instr, j.space = .gp1 → w &&& j.tableMask ≠ j.tableMatch)

/-- R136: the worked encodings, each word decoding to its instruction and encoding back to it. -/
def Obligations.WorkedEncodings : Prop :=
  ∀ p ∈ ([(0x00000000, .sll 0 0 0), (0x24080005, .addiu 8 0 5), (0x3C081F80, .lui 8 0x1F80),
      (0x00851020, .add 2 4 5), (0x00094100, .sll 8 9 4), (0xAFA80008, .sw 8 29 8), (0x8FA9FFFC, .lw 9 29 0xFFFC),
      (0x11090003, .beq 8 9 3), (0x04900001, .bltzal 4 1), (0x08000400, .j 0x0000400), (0x03E00008, .jr 31),
      (0x0100F809, .jalr 31 8), (0x00850018, .mult 4 5), (0x00001012, .mflo 2), (0x0000000C, .syscall),
      (0x0000000D, .brk), (0x401A7000, .mfc0 26 14), (0x40886000, .mtc0 8 12), (0x42000010, .rfe)]
      : List (Word × Instr)),
    decodeCpu p.1 = .ok p.2 ∧ encode p.2 = [p.1]

/-- R131: every encoding outside the maps R127 to R130 stops the machine as an unknown instruction, in every mode and
whatever the coprocessor-enable bits hold (R289), with the fetch's address and the word as diagnostic. -/
def Obligations.ReservedEncodingsStop : Prop :=
  ∀ (s : State) (w : Word), s.halted = none → s.fetch = .ok w →
    (let op := (w.extractLsb' 26 6).toNat
     let rs := (w.extractLsb' 21 5).toNat
     let rt := (w.extractLsb' 16 5).toNat
     let funct := (w.extractLsb' 0 6).toNat
     op ∈ [0x11, 0x12, 0x13, 0x14, 0x15, 0x16, 0x17, 0x27, 0x2C, 0x2D, 0x2F]
     ∨ 0x18 ≤ op ∧ op < 0x20
     ∨ 0x30 ≤ op
     ∨ op = 0 ∧ funct ∈ [0x01, 0x05, 0x0A, 0x0B, 0x0E, 0x0F, 0x14, 0x15, 0x16, 0x17, 0x1C, 0x1D, 0x1E, 0x1F, 0x28, 0x29]
     ∨ op = 0 ∧ 0x2C ≤ funct
     ∨ op = 1 ∧ rt ≠ 0 ∧ rt ≠ 1 ∧ rt ≠ 16 ∧ rt ≠ 17
     ∨ op = 16 ∧ rs ≠ 0 ∧ rs ≠ 4 ∧ rs ≠ 16
     ∨ op = 16 ∧ rs = 16 ∧ funct ≠ 16) →
    step s = stopped { s with cia := s.currentPc, currentPc := s.nextPc, nextPc := s.nextPc + 4 }
      (.unknownInstruction s.currentPc w)

/-! ## Reset and the step -/

/-- R65: the value the spec gives each piece of state at reset, for every choice of the OPEN parameters and every
firmware image, and the parameters' defaults.  The items R65 leaves unspecified are not stated here.  R65 leaves the
firmware image to the host: that `State.reset` takes the image that lists no byte is the model's choice
(notes/assumptions/2.md). -/
def Obligations.ResetValues : Prop :=
  (∀ (c : Config) (image : Memory), let s := State.resetWith c image
    s.reg 0 = 0 ∧ s.currentPc = c.resetPc ∧ s.nextPc = c.resetPc + 4 ∧ s.cia = 0
    ∧ s.executedBranch = false ∧ s.inDelaySlot = false ∧ s.halted = none
    ∧ s.sr = 0 ∧ s.cause = 0 ∧ s.epc = 0 ∧ s.bios = image
    ∧ (∀ n : ChannelId, (s.channel n).madr = 0 ∧ (s.channel n).bcr = 0 ∧ (s.channel n).chcr = 0)
    ∧ s.dma.dpcr = 0x07654321 ∧ s.dma.dicrLow6 = 0 ∧ s.dma.dicrForce = false ∧ s.dma.dicrEn = 0
    ∧ s.dma.dicrMaster = false ∧ s.dma.dicrFlags = 0 ∧ s.dma.irqPending = false
    ∧ s.gpu.status = c.gpuReadyMask
    ∧ s.gpu.twMaskX = 0 ∧ s.gpu.twMaskY = 0 ∧ s.gpu.twOffX = 0 ∧ s.gpu.twOffY = 0
    ∧ s.gpu.daLeft = 0 ∧ s.gpu.daTop = 0 ∧ s.gpu.daRight = 0 ∧ s.gpu.daBottom = 0
    ∧ s.gpu.offX = 0 ∧ s.gpu.offY = 0 ∧ s.gpu.dispX = 0 ∧ s.gpu.dispY = 0
    ∧ s.gpu.rectFlipX = false ∧ s.gpu.rectFlipY = false
    ∧ s.gpu.hStart = c.hStartDefault ∧ s.gpu.hEnd = c.hEndDefault
    ∧ s.gpu.vStart = c.vStartDefault ∧ s.gpu.vEnd = c.vEndDefault
    ∧ s.gpu.mode = .idle ∧ s.gpu.fetched = 0 ∧ s.gpu.required = 0 ∧ s.gpu.opcode = 0
    ∧ (∀ k : Fin 12, s.gpu.buf[k] = 0)
    ∧ s.gpu.out = [] ∧ s.devLog = [])
  ∧ State.reset = State.resetWith Config.default []
  ∧ Config.default.resetPc = 0xBFC00000 ∧ Config.default.gpuReadyMask = 0x14000000
  ∧ Config.default.hStartDefault = 0 ∧ Config.default.hEndDefault = 0
  ∧ Config.default.vStartDefault = 0 ∧ Config.default.vEndDefault = 0

/-- R410: a step is fetch, program-counter advance, the decoded instruction, epilogue; it stops at the fetch or the
decode when those stop; and a halted machine has no step (R424). -/
def Obligations.StepRunsDecodedInstruction : Prop :=
  ∀ s : State,
    let s₁ := { s with cia := s.currentPc, currentPc := s.nextPc, nextPc := s.nextPc + 4 }
    (∀ w i t, s.halted = none → s.memRead s.currentPc .word = .ok w → decodeCpu w = .ok i → exec i s₁ = .next t →
      step s = .next { t with inDelaySlot := t.executedBranch, executedBranch := false })
    ∧ (∀ w i e, s.halted = none → s.memRead s.currentPc .word = .ok w → decodeCpu w = .ok i →
        exec i s₁ = .fault e → step s = .fault e)
    ∧ (∀ w i e, s.halted = none → s.memRead s.currentPc .word = .ok w → decodeCpu w = .ok i →
        exec i s₁ = .refused e → step s = .refused e)
    ∧ (∀ r, s.halted = none → s.memRead s.currentPc .word = .error r → step s = stopped s r)
    ∧ (∀ w e, s.halted = none → s.memRead s.currentPc .word = .ok w → decodeCpu w = .error e →
        step s = stopped s₁ (.unknownInstruction s.currentPc w))
    ∧ (∀ r, s.halted = some r → step s = .refused (.halted r))

/-- The state after reset meets the invariant, whatever the parameters and the image, if these are well formed.  That
memories start empty is the model's choice (notes/assumptions/2.md). -/
def Obligations.ResetHasInvariant : Prop :=
  State.reset.Inv
  ∧ ∀ (c : Config) (image : Memory), c.WellFormed → image.wf → image.within c.bios.size → (State.resetWith c image).Inv

/-- Every step keeps the invariant, from every state that has it: the buffering state stays consistent (R60), no
channel is active (R326), the constant status bits and `x[0]` stay as they are (R51, R21), the memories stay
canonical and inside their sizes, and the machine has not halted. -/
def Obligations.StepKeepsInvariant : Prop :=
  ∀ s t : State, s.Inv → step s = .next t → t.Inv

/-- R412, R376: from a state with the invariant no step is refused: it has a next state, or the spec's own stop. -/
def Obligations.InvariantStepIsNeverRefused : Prop :=
  ∀ s : State, s.Inv → ∀ r : Refusal, step s ≠ .refused r

/-- R35, R46, R58: no step changes the firmware or a parameter of the machine (R7), both output lists only grow, at
their end, and a pending DMA interrupt stays pending. -/
def Obligations.WhatNoStepUndoes : Prop :=
  ∀ s t : State, step s = .next t →
    t.bios = s.bios ∧ t.cfg = s.cfg
    ∧ (∃ es, t.gpu.out = s.gpu.out ++ es) ∧ (∃ es, t.devLog = s.devLog ++ es)
    ∧ (s.dma.irqPending = true → t.dma.irqPending = true)

/-- Each block's state is written only by the instructions its rules name: coprocessor 0 by its moves, `rfe` and
exception entry (R29), `hi` and `lo` by R23's six, the Router's and the DMA engine's state by stores (R252), the
GPU by stores and GPU commands, the program counters by control transfers and exceptions (R150, R220). -/
def Obligations.StateHasItsOwners : Prop :=
  ∀ (i : Instr) (s t : State), exec i s = .next t →
    (i.canRaise = false → i ≠ .rfe → (∀ rt rd, i ≠ .mtc0 rt rd) → t.sr = s.sr ∧ t.cause = s.cause ∧ t.epc = s.epc)
    ∧ (i.writesHiLo = false → t.hi = s.hi ∧ t.lo = s.lo)
    ∧ (i.isStore = false → t.ram = s.ram ∧ t.scratch = s.scratch ∧ t.dma = s.dma ∧ t.devLog = s.devLog)
    ∧ (i.isStore = false → i.space = .cpu → t.gpu = s.gpu)
    ∧ (i.canRaise = false → t.currentPc = s.currentPc)
    ∧ (i.canRaise = false → i.isTransfer = false → t.nextPc = s.nextPc ∧ t.executedBranch = s.executedBranch)
    ∧ t.cia = s.cia ∧ t.inDelaySlot = s.inDelaySlot ∧ t.halted = s.halted

/-- R237: what a step leaves in the program counters and the delay-slot flag.  A control transfer is followed by the
instruction after it, in a delay slot; every other instruction that raises nothing goes on at `next_pc`, in none. -/
def Obligations.DelaySlotTimeline : Prop :=
  ∀ (s t : State) (w : Word) (i : Instr), s.executedBranch = false → s.fetch = .ok w → decodeCpu w = .ok i →
    step s = .next t →
    t.executedBranch = false
    ∧ (i.isTransfer = true → s.inDelaySlot = false ∧ t.inDelaySlot = true ∧ t.currentPc = s.nextPc)
    ∧ (i.isTransfer = false → t.inDelaySlot = false)
    ∧ (i.isTransfer = false → i.canRaise = false → t.currentPc = s.nextPc ∧ t.nextPc = s.nextPc + 4)

/-! ## The address space -/

/-- R71: segment masking, range by range. -/
def Obligations.SegmentMasking : Prop :=
  ∀ a : Word,
    (a.toNat < 0x80000000 → physOf a = a)
    ∧ (0x80000000 ≤ a.toNat → a.toNat < 0xA0000000 → (physOf a).toNat = a.toNat - 0x80000000)
    ∧ (0xA0000000 ≤ a.toNat → a.toNat < 0xC0000000 → (physOf a).toNat = a.toNat - 0xA0000000)
    ∧ (0xC0000000 ≤ a.toNat → physOf a = a)

/-- R75: little-endian values, and the bytes and halfwords a mixed-width access sees after a 32-bit store. -/
def Obligations.LittleEndian : Prop :=
  (∀ (m : Memory) (o : Nat),
    (m.readLE o .byte).toNat = (m.read o).toNat
    ∧ (m.readLE o .half).toNat = (m.read o).toNat + 2 ^ 8 * (m.read (o + 1)).toNat
    ∧ (m.readLE o .word).toNat = (m.read o).toNat + 2 ^ 8 * (m.read (o + 1)).toNat
        + 2 ^ 16 * (m.read (o + 2)).toNat + 2 ^ 24 * (m.read (o + 3)).toNat)
  ∧ ∀ (s t : State) (a v : Word), s.cfg.WellFormed → s.MemoriesWf → s.memWrite a .word v = .next t →
      (regionOf s.cfg (physOf a) = .ram ∨ regionOf s.cfg (physOf a) = .scratch) →
      t.memRead a .word = .ok v
      ∧ (∀ k : Fin 4, t.memRead (a + BitVec.ofNat 32 k) .byte = .ok ((v.extractLsb' (8 * k) 8).setWidth 32))
      ∧ (∀ j : Fin 2, t.memRead (a + BitVec.ofNat 32 (2 * j)) .half = .ok ((v.extractLsb' (16 * j) 16).setWidth 32))

/-- R77: a misaligned access stops, before region decode and on the unmasked address; a byte access and the aligned
word of an unaligned instruction never do. -/
def Obligations.MisalignedAccessStops : Prop :=
  ∀ (s : State) (a v : Word),
    (∀ n : Width, a.toNat % n.bytes ≠ 0 → s.memRead a n = .error (.misaligned a n)
      ∧ s.memWrite a n v = stopped s (.misaligned a n))
    ∧ (∀ b n, s.memRead a .byte ≠ .error (.misaligned b n))
    ∧ (∀ b n, s.memRead (a &&& 0xFFFFFFFC) .word ≠ .error (.misaligned b n))
    ∧ (s.halted = none → s.currentPc.toNat % 4 ≠ 0 → step s = stopped s (.misaligned s.currentPc .word))

/-- R82 to R84 and R92, with the default parameters: the byte each readable region gives at each of its addresses, and
the stop at every aligned access outside the map, fetches included. -/
def Obligations.MemoryMap : Prop :=
  ∀ (s : State) (a v : Word), s.cfg = Config.default →
    let p := (physOf a).toNat
    (p < 0x00800000 → s.memRead a .byte = .ok ((s.ram.read (p % 0x200000)).setWidth 32))
    ∧ (0x1F800000 ≤ p → p < 0x1F800400 → s.memRead a .byte = .ok ((s.scratch.read (p - 0x1F800000)).setWidth 32))
    ∧ (0x1FC00000 ≤ p → p < 0x1FC80000 → s.memRead a .byte = .ok ((s.bios.read (p - 0x1FC00000)).setWidth 32))
    ∧ (0x00800000 ≤ p ∧ p < 0x1F000000 ∨ 0x1F800400 ≤ p ∧ p < 0x1F801000 ∨ 0x1F803000 ≤ p ∧ p < 0x1FC00000
        ∨ 0x1FC80000 ≤ p → ∀ n : Width, a.toNat % n.bytes = 0 →
      s.memRead a n = .error (.unmappedAddress a) ∧ s.memWrite a n v = stopped s (.unmappedAddress a)
      ∧ (s.halted = none → s.currentPc = a → n = .word → step s = stopped s (.unmappedAddress a)))

/-- R88 to R90 and R93: a write to the firmware stops; the expansion region reads its stub and drops writes, logging
them; in the device window an address of no mapped register reads 0 and drops writes, logging them, at any width; a
narrow access to a mapped register's bytes stops.  That the firmware stop's diagnostic holds both addresses is the
model's choice (notes/assumptions/5.md): R81 hands on the address as passed, R425 lists the physical one. -/
def Obligations.FirmwareAndStubs : Prop :=
  ∀ (s : State) (a v : Word) (n : Width), a.toNat % n.bytes = 0 →
    (regionOf s.cfg (physOf a) = .bios → s.memWrite a n v = stopped s (.writeToFirmware a (physOf a)))
    ∧ (regionOf s.cfg (physOf a) = .exp1 →
        s.memRead a n = .ok (BitVec.ofNat 32 (s.cfg.expReadStub.toNat % 2 ^ (8 * n.bytes)))
        ∧ s.memWrite a n v = .next { s with devLog := s.devLog ++ [.droppedWrite a n v] })
    ∧ (regionOf s.cfg (physOf a) = .io →
        let base := physOf a &&& 0xFFFFFFFC
        let mapped := (∃ k j : Nat, k < 7 ∧ j < 3 ∧ base = BitVec.ofNat 32 (0x1F801080 + 0x10 * k + 4 * j))
          ∨ base = 0x1F8010F0 ∨ base = 0x1F8010F4 ∨ base = 0x1F801810 ∨ base = 0x1F801814
        (¬mapped → s.memRead a n = .ok 0
          ∧ s.memWrite a n v = .next { s with devLog := s.devLog ++ [.droppedWrite (physOf a) n v] })
        ∧ (mapped → n ≠ .word → s.memRead a n = .error (.unsupportedWidth (physOf a) n)
          ∧ s.memWrite a n v = stopped s (.unsupportedWidth (physOf a) n)))

/-- R91: what each mapped register reads as and what a 32-bit write to it does. -/
def Obligations.DeviceRegisters : Prop :=
  ∀ (s : State) (a v : Word), a.toNat % 4 = 0 → regionOf s.cfg (physOf a) = .io →
    (∀ n : ChannelId, physOf a = BitVec.ofNat 32 (0x1F801080 + 0x10 * n.val) →
      s.memRead a .word = .ok ((s.channel n).madr.setWidth 32)
      ∧ s.memWrite a .word v = .next { s with dma := { s.dma with
          channels := s.dma.channels.set n.val { s.channel n with madr := v.setWidth 24 } } })
    ∧ (∀ n : ChannelId, physOf a = BitVec.ofNat 32 (0x1F801084 + 0x10 * n.val) →
      s.memRead a .word = .ok (s.channel n).bcr
      ∧ s.memWrite a .word v = .next { s with dma := { s.dma with
          channels := s.dma.channels.set n.val { s.channel n with bcr := v } } })
    ∧ (∀ n : ChannelId, physOf a = BitVec.ofNat 32 (0x1F801088 + 0x10 * n.val) →
      s.memRead a .word = .ok (s.channel n).chcr ∧ s.memWrite a .word v = chcrWrite n v s)
    ∧ (physOf a = 0x1F8010F0 →
      s.memRead a .word = .ok s.dma.dpcr ∧ s.memWrite a .word v = .next { s with dma := { s.dma with dpcr := v } })
    ∧ (physOf a = 0x1F8010F4 →
      s.memRead a .word = .ok s.dma.dicrRead ∧ s.memWrite a .word v = .next { s with dma := s.dma.dicrWrite v })
    ∧ (physOf a = 0x1F801810 → s.memRead a .word = .ok 0 ∧ s.memWrite a .word v = s.gp0 v)
    ∧ (physOf a = 0x1F801814 → s.memRead a .word = .ok s.gpu.status ∧ s.memWrite a .word v = s.gp1 v)

/-! ## The DMA engine -/

/-- R305, R306: the interrupt-control register read bit by bit, and what a write does to it. -/
def Obligations.InterruptControlRegister : Prop :=
  ∀ (d : Dma) (v : Word),
    (∀ k : Nat, k < 32 → d.dicrRead.getLsbD k =
      if k < 6 then d.dicrLow6.getLsbD k
      else if k < 15 then false
      else if k = 15 then d.dicrForce
      else if k < 23 then d.dicrEn.getLsbD (k - 16)
      else if k = 23 then d.dicrMaster
      else if k < 31 then d.dicrFlags.getLsbD (k - 24)
      else d.dicrForce || (d.dicrMaster && decide (∃ n : ChannelId,
        d.dicrFlags.getLsbD n = true ∧ d.dicrEn.getLsbD n = true)))
    ∧ (d.dicrWrite v).dicrLow6 = v.extractLsb' 0 6
    ∧ (d.dicrWrite v).dicrForce = v.getLsbD 15
    ∧ (d.dicrWrite v).dicrEn = v.extractLsb' 16 7
    ∧ (d.dicrWrite v).dicrMaster = v.getLsbD 23
    ∧ (∀ n : ChannelId, (d.dicrWrite v).dicrFlags.getLsbD n = (d.dicrFlags.getLsbD n && !v.getLsbD (24 + n)))
    ∧ (d.dicrWrite v).channels = d.channels ∧ (d.dicrWrite v).dpcr = d.dpcr
    ∧ (d.dicrWrite v).irqPending = d.irqPending

/-- R307, R308: a write of a channel-control register stores all 32 bits; if the channel is not active then, that is
all it does; if it is, the transfer runs and then completes, before the write returns. -/
def Obligations.ControlWriteStartsTransfer : Prop :=
  ∀ (s : State) (n : ChannelId) (v : Word),
    let active := v.getLsbD 24 = true ∧ (v.extractLsb' 9 2 ≠ 0 ∨ v.getLsbD 28 = true)
    let stored := { s with dma := { s.dma with channels := s.dma.channels.set n.val { s.channel n with chcr := v } } }
    (¬active → chcrWrite n v s = .next stored)
    ∧ (active → ∀ t, dmaRun n stored = .next t → chcrWrite n v s = .next (dmaComplete n t))
    ∧ (active → ∀ e, dmaRun n stored = .fault e → chcrWrite n v s = .fault e)

/-- R309 to R314, R316: which algorithm each sync mode runs and for how many units, which transfers stop, the stored
control word included, and that a transfer of length 0 completes whatever its device and direction. -/
def Obligations.TransferDispatch : Prop :=
  (∀ (s : State) (n : ChannelId),
    let c := (s.channel n).chcr
    let b := (s.channel n).bcr.toNat
    let addr := (s.channel n).madr.setWidth 32
    (c.extractLsb' 9 2 = 0 →
      dmaRun n s = dmaBlock n c (if b % 0x10000 = 0 then 0x10000 else b % 0x10000) addr s)
    ∧ (c.extractLsb' 9 2 = 1 → dmaRun n s = dmaBlock n c (b % 0x10000 * (b / 0x10000)) addr s)
    ∧ (c.extractLsb' 9 2 = 2 → n = 2 → c.getLsbD 0 = true → dmaRun n s = dmaList 2 s))
  ∧ ∀ (s : State) (n : ChannelId) (v : Word), v.getLsbD 24 = true →
    let stored := { s with dma := { s.dma with channels := s.dma.channels.set n.val { s.channel n with chcr := v } } }
    let served := n = 6 ∧ v.getLsbD 0 = false ∨ n = 2 ∧ v.getLsbD 0 = true
    (v.extractLsb' 9 2 = 3 → chcrWrite n v s = stopped stored (.dmaReservedSync n v))
    ∧ (v.extractLsb' 9 2 = 2 → (n ≠ 2 ∨ v.getLsbD 0 = false) →
        chcrWrite n v s = stopped stored (.dmaBadLinkedList n v))
    ∧ (v.extractLsb' 9 2 = 0 → v.getLsbD 28 = true → ¬served → chcrWrite n v s = stopped stored (.dmaUnsupported n v))
    ∧ (v.extractLsb' 9 2 = 1 → (s.channel n).bcr.extractLsb' 0 16 ≠ 0 → (s.channel n).bcr.extractLsb' 16 16 ≠ 0 →
        ¬served → chcrWrite n v s = stopped stored (.dmaUnsupported n v))
    ∧ (v.extractLsb' 9 2 = 1 → ((s.channel n).bcr.extractLsb' 0 16 = 0 ∨ (s.channel n).bcr.extractLsb' 16 16 = 0) →
        chcrWrite n v s = .next (dmaComplete n stored))

/-- R315, R317, R319: an ordering-table clear of `len` units, none of which meets another, writes each unit's word,
the pointer below it or at the last unit the sentinel, and changes no other word of main memory and nothing else. -/
def Obligations.OrderingTableClear : Prop :=
  ∀ (s : State) (c addr : Word) (len : Nat), c.getLsbD 0 = false → len ≤ 0x80000 → s.ram.wf →
    let unit (k : Nat) : Word := if c.getLsbD 1 then addr - BitVec.ofNat 32 (4 * k) else addr + BitVec.ofNat 32 (4 * k)
    Completes (dmaBlock 6 c len addr s) fun t =>
      OnlyRam s t
      ∧ (∀ k, k < len → t.ramWord (unit k &&& 0x1FFFFC) =
          if k + 1 = len then 0x00FFFFFF else (unit k - 4) &&& 0x1FFFFF)
      ∧ (∀ o : Nat, (∀ k, k < len → ¬((unit k &&& 0x1FFFFC).toNat ≤ o ∧ o < (unit k &&& 0x1FFFFC).toNat + 4)) →
          t.ram.read o = s.ram.read o)

/-- R318, R319: a GPU block hands the words of main memory to GPU port 0 one by one, in the order of the transfer. -/
def Obligations.GpuBlockIsAStream : Prop :=
  ∀ (s : State) (c addr : Word) (len : Nat), c.getLsbD 0 = true →
    dmaBlock 2 c len addr s = s.gp0Stream ((List.range len).map fun k =>
      s.ramWord ((if c.getLsbD 1 then addr - BitVec.ofNat 32 (4 * k) else addr + BitVec.ofNat 32 (4 * k)) &&& 0x1FFFFC))

/-- R323, R324: completion. -/
def Obligations.Completion : Prop :=
  ∀ (s : State) (n : ChannelId), let t := dmaComplete n s
    t.dma.channels = s.dma.channels.set n.val
      { s.channel n with chcr := (s.channel n).chcr &&& 0xEEFFFFFF }
    ∧ (∀ m : ChannelId, t.dma.dicrFlags.getLsbD m =
        if m = n ∧ s.dma.dicrEn.getLsbD n = true then true else s.dma.dicrFlags.getLsbD m)
    ∧ (let signals := s.dma.dicrForce = true ∨ s.dma.dicrMaster = true ∧ s.dma.dicrEn.getLsbD n = true
       (signals → t.dma.irqPending = true ∧ t.devLog = s.devLog ++ [.dmaIrq n])
       ∧ (¬signals → t.dma.irqPending = s.dma.irqPending ∧ t.devLog = s.devLog))
    ∧ { t with devLog := s.devLog, dma := { t.dma with
          channels := s.dma.channels, dicrFlags := s.dma.dicrFlags, irqPending := s.dma.irqPending } } = s

/-- R325 and the frame of a transfer: base addresses, block words, the other channels' control words and the rest of
the engine's registers are as before, main memory changes on channel 6 only and the GPU on channel 2 only, and no
register of the CPU, no scratchpad and no firmware byte changes. -/
def Obligations.TransferFrame : Prop :=
  ∀ (s t : State) (n : ChannelId) (v : Word), chcrWrite n v s = .next t →
    (∀ m : ChannelId, (t.channel m).madr = (s.channel m).madr ∧ (t.channel m).bcr = (s.channel m).bcr)
    ∧ (∀ m : ChannelId, m ≠ n → (t.channel m).chcr = (s.channel m).chcr)
    ∧ ((t.channel n).chcr = v ∨ (t.channel n).chcr = v &&& 0xEEFFFFFF)
    ∧ (n ≠ 6 → t.ram = s.ram) ∧ (n ≠ 2 → t.gpu = s.gpu)
    ∧ { t with ram := s.ram, gpu := s.gpu, devLog := s.devLog, dma := { t.dma with
          channels := s.dma.channels, dicrFlags := s.dma.dicrFlags, irqPending := s.dma.irqPending } } = s

/-- R321: a list the model calls endless never ends.  Whatever number of nodes a walk is given, if it ends, in a next
state or in a stop, then the model's own walk, which is given `listFuel` nodes, ends the same.  The fuel and the fault
of a list that does not end are the model's (notes/assumptions/6.md, DEDUCED). -/
def Obligations.LinkedListWalkIsComplete : Prop :=
  ∀ (s : State) (fuel : Nat), let walk := dmaListFrom 2 fuel ((s.channel 2).madr.setWidth 32 &&& 0x1FFFFC) s
    (∀ madr control, walk ≠ .fault (.endlessLinkedList madr control)) → dmaList 2 s = walk

/-- R320, R322: the two-node list.  It forwards exactly the two words that follow the first header, and reads no word
after the second header, which nothing here constrains. -/
def Obligations.TwoNodeList : Prop :=
  ∀ (s : State) (b : Word), let a := (s.channel 2).madr.setWidth 32 &&& 0x1FFFFC
    (s.ramWord a).extractLsb' 24 8 = 2 → (s.ramWord a).extractLsb' 0 24 ≠ 0xFFFFFF →
    b = ((s.ramWord a).extractLsb' 0 24).setWidth 32 &&& 0x1FFFFC → s.ramWord b = 0x00FFFFFF →
    dmaList 2 s = s.gp0Stream [s.ramWord ((a + 4) &&& 0x1FFFFC), s.ramWord ((a + 8) &&& 0x1FFFFC)]

/-! ## ALU, shifts and immediates -/

/-- R153, R155 to R161: the register ALU instructions that never trap. -/
def Obligations.RegisterAlu : Prop :=
  (Selects 0xFC00003F 0x21 fun w => .addu (rdField w) (rsField w) (rtField w))
  ∧ (Selects 0xFC00003F 0x23 fun w => .subu (rdField w) (rsField w) (rtField w))
  ∧ (Selects 0xFC00003F 0x24 fun w => .and (rdField w) (rsField w) (rtField w))
  ∧ (Selects 0xFC00003F 0x25 fun w => .or (rdField w) (rsField w) (rtField w))
  ∧ (Selects 0xFC00003F 0x26 fun w => .xor (rdField w) (rsField w) (rtField w))
  ∧ (Selects 0xFC00003F 0x27 fun w => .nor (rdField w) (rsField w) (rtField w))
  ∧ (Selects 0xFC00003F 0x2A fun w => .slt (rdField w) (rsField w) (rtField w))
  ∧ (Selects 0xFC00003F 0x2B fun w => .sltu (rdField w) (rsField w) (rtField w))
  ∧ ∀ (s : State) (rd rs rt : Reg), let a := s.reg rs; let b := s.reg rt
    Completes (exec (.addu rd rs rt) s) (OnlyRegister rd (BitVec.ofNat 32 (a.toNat + b.toNat)) s)
    ∧ Completes (exec (.subu rd rs rt) s) (OnlyRegister rd (BitVec.ofInt 32 ((a.toNat : Int) - b.toNat)) s)
    ∧ Completes (exec (.and rd rs rt) s) (OnlyRegister rd (a &&& b) s)
    ∧ Completes (exec (.or rd rs rt) s) (OnlyRegister rd (a ||| b) s)
    ∧ Completes (exec (.xor rd rs rt) s) (OnlyRegister rd (a ^^^ b) s)
    ∧ Completes (exec (.nor rd rs rt) s) (OnlyRegister rd (~~~(a ||| b)) s)
    ∧ Completes (exec (.slt rd rs rt) s) (OnlyRegister rd (if a.toInt < b.toInt then 1 else 0) s)
    ∧ Completes (exec (.sltu rd rs rt) s) (OnlyRegister rd (if a.toNat < b.toNat then 1 else 0) s)

/-- R162 to R167: the shifts. -/
def Obligations.Shifts : Prop :=
  (Selects 0xFC00003F 0x00 fun w => .sll (rdField w) (rtField w) (shamtField w))
  ∧ (Selects 0xFC00003F 0x02 fun w => .srl (rdField w) (rtField w) (shamtField w))
  ∧ (Selects 0xFC00003F 0x03 fun w => .sra (rdField w) (rtField w) (shamtField w))
  ∧ (Selects 0xFC00003F 0x04 fun w => .sllv (rdField w) (rtField w) (rsField w))
  ∧ (Selects 0xFC00003F 0x06 fun w => .srlv (rdField w) (rtField w) (rsField w))
  ∧ (Selects 0xFC00003F 0x07 fun w => .srav (rdField w) (rtField w) (rsField w))
  ∧ ∀ (s : State) (rd rt rs : Reg) (n : BitVec 5), let v := s.reg rt; let m := (s.reg rs).toNat % 32
    Completes (exec (.sll rd rt n) s) (OnlyRegister rd (BitVec.ofNat 32 (v.toNat * 2 ^ n.toNat)) s)
    ∧ Completes (exec (.srl rd rt n) s) (OnlyRegister rd (BitVec.ofNat 32 (v.toNat / 2 ^ n.toNat)) s)
    ∧ Completes (exec (.sra rd rt n) s) (OnlyRegister rd (BitVec.ofInt 32 (v.toInt / 2 ^ n.toNat)) s)
    ∧ Completes (exec (.sllv rd rt rs) s) (OnlyRegister rd (BitVec.ofNat 32 (v.toNat * 2 ^ m)) s)
    ∧ Completes (exec (.srlv rd rt rs) s) (OnlyRegister rd (BitVec.ofNat 32 (v.toNat / 2 ^ m)) s)
    ∧ Completes (exec (.srav rd rt rs) s) (OnlyRegister rd (BitVec.ofInt 32 (v.toInt / 2 ^ m)) s)

/-- R169 to R175: the immediate instructions that never trap. -/
def Obligations.ImmediateAlu : Prop :=
  (Selects 0xFC000000 0x24000000 fun w => .addiu (rtField w) (rsField w) (immField w))
  ∧ (Selects 0xFC000000 0x28000000 fun w => .slti (rtField w) (rsField w) (immField w))
  ∧ (Selects 0xFC000000 0x2C000000 fun w => .sltiu (rtField w) (rsField w) (immField w))
  ∧ (Selects 0xFC000000 0x30000000 fun w => .andi (rtField w) (rsField w) (immField w))
  ∧ (Selects 0xFC000000 0x34000000 fun w => .ori (rtField w) (rsField w) (immField w))
  ∧ (Selects 0xFC000000 0x38000000 fun w => .xori (rtField w) (rsField w) (immField w))
  ∧ (Selects 0xFC000000 0x3C000000 fun w => .lui (rtField w) (immField w))
  ∧ ∀ (s : State) (rt rs : Reg) (imm : Half), let a := s.reg rs
    Completes (exec (.addiu rt rs imm) s) (OnlyRegister rt (BitVec.ofInt 32 (a.toInt + imm.toInt)) s)
    ∧ Completes (exec (.slti rt rs imm) s) (OnlyRegister rt (if a.toInt < imm.toInt then 1 else 0) s)
    ∧ Completes (exec (.sltiu rt rs imm) s)
        (OnlyRegister rt (if a.toNat < (imm.signExtend 32).toNat then 1 else 0) s)
    ∧ Completes (exec (.andi rt rs imm) s) (OnlyRegister rt (a &&& BitVec.ofNat 32 imm.toNat) s)
    ∧ Completes (exec (.ori rt rs imm) s) (OnlyRegister rt (a ||| BitVec.ofNat 32 imm.toNat) s)
    ∧ Completes (exec (.xori rt rs imm) s) (OnlyRegister rt (a ^^^ BitVec.ofNat 32 imm.toNat) s)
    ∧ Completes (exec (.lui rt imm) s) (OnlyRegister rt (imm ++ (0 : BitVec 16)) s)

/-- R151, R152, R154, R168: `add`, `sub` and `addi` write the wrapped result, whatever happens then, and trap exactly
when the exact result is no 32-bit signed number. -/
def Obligations.SignedOverflow : Prop :=
  (Selects 0xFC00003F 0x20 fun w => .add (rdField w) (rsField w) (rtField w))
  ∧ (Selects 0xFC00003F 0x22 fun w => .sub (rdField w) (rsField w) (rtField w))
  ∧ (Selects 0xFC000000 0x20000000 fun w => .addi (rtField w) (rsField w) (immField w))
  ∧ ∀ (s : State) (rd rs rt : Reg) (imm : Half),
    WritesThenTraps (exec (.add rd rs rt) s) rd ((s.reg rs).toInt + (s.reg rt).toInt) s
    ∧ WritesThenTraps (exec (.sub rd rs rt) s) rd ((s.reg rs).toInt - (s.reg rt).toInt) s
    ∧ WritesThenTraps (exec (.addi rt rs imm) s) rt ((s.reg rs).toInt + imm.toInt) s

/-! ## Multiply, divide, hi and lo -/

/-- R201, R202: `hi` over `lo` is the exact 64-bit product. -/
def Obligations.Multiply : Prop :=
  (Selects 0xFC00003F 0x18 fun w => .mult (rsField w) (rtField w))
  ∧ (Selects 0xFC00003F 0x19 fun w => .multu (rsField w) (rtField w))
  ∧ ∀ (s : State) (rs rt : Reg),
    Completes (exec (.mult rs rt) s) (fun t =>
      (t.hi ++ t.lo).toInt = (s.reg rs).toInt * (s.reg rt).toInt ∧ OnlyHiLo t.hi t.lo s t)
    ∧ Completes (exec (.multu rs rt) s) (fun t =>
      (t.hi ++ t.lo).toNat = (s.reg rs).toNat * (s.reg rt).toNat ∧ OnlyHiLo t.hi t.lo s t)

/-- R203, R204 and the laws of R208: the two special cases, and in every other case the quotient and remainder over
the integers, the remainder smaller than the divisor and of the dividend's sign. -/
def Obligations.Divide : Prop :=
  (Selects 0xFC00003F 0x1A fun w => .div (rsField w) (rtField w))
  ∧ (Selects 0xFC00003F 0x1B fun w => .divu (rsField w) (rtField w))
  ∧ ∀ (s : State) (rs rt : Reg), let n := s.reg rs; let d := s.reg rt
    Completes (exec (.div rs rt) s) (fun t => OnlyHiLo t.hi t.lo s t
      ∧ (d = 0 → t.hi = n ∧ t.lo = if 0 ≤ n.toInt then 0xFFFFFFFF else 1)
      ∧ (n = 0x80000000 → d = 0xFFFFFFFF → t.hi = 0 ∧ t.lo = 0x80000000)
      ∧ (d ≠ 0 → ¬(n = 0x80000000 ∧ d = 0xFFFFFFFF) →
          t.lo.toInt * d.toInt + t.hi.toInt = n.toInt ∧ t.hi.toInt.natAbs < d.toInt.natAbs
          ∧ (t.hi.toInt = 0 ∨ (0 < t.hi.toInt ↔ 0 < n.toInt))))
    ∧ Completes (exec (.divu rs rt) s) (fun t => OnlyHiLo t.hi t.lo s t
      ∧ (d = 0 → t.hi = n ∧ t.lo = 0xFFFFFFFF)
      ∧ (d ≠ 0 → t.lo.toNat = n.toNat / d.toNat ∧ t.hi.toNat = n.toNat % d.toNat))

/-- R205 to R207, R209: the moves from and to `hi` and `lo`. -/
def Obligations.HiLoMoves : Prop :=
  (Selects 0xFC00003F 0x10 fun w => .mfhi (rdField w))
  ∧ (Selects 0xFC00003F 0x11 fun w => .mthi (rsField w))
  ∧ (Selects 0xFC00003F 0x12 fun w => .mflo (rdField w))
  ∧ (Selects 0xFC00003F 0x13 fun w => .mtlo (rsField w))
  ∧ ∀ (s : State) (r : Reg),
    Completes (exec (.mfhi r) s) (OnlyRegister r s.hi s)
    ∧ Completes (exec (.mflo r) s) (OnlyRegister r s.lo s)
    ∧ Completes (exec (.mthi r) s) (OnlyHiLo (s.reg r) s.lo s)
    ∧ Completes (exec (.mtlo r) s) (OnlyHiLo s.hi (s.reg r) s)

/-! ## Jumps and branches -/

/-- R225 to R228: the jumps, and their stop in a delay slot (R221). -/
def Obligations.Jumps : Prop :=
  (Selects 0xFC000000 0x08000000 fun w => .j (targetField w))
  ∧ (Selects 0xFC000000 0x0C000000 fun w => .jal (targetField w))
  ∧ (Selects 0xFC00003F 0x08 fun w => .jr (rsField w))
  ∧ (Selects 0xFC00003F 0x09 fun w => .jalr (rdField w) (rsField w))
  ∧ ∀ (s : State) (rd rs : Reg) (target : BitVec 26), let dest := s.currentPc.extractLsb' 28 4 ++ target ++ (0 : BitVec 2)
    (s.inDelaySlot = false →
      Completes (exec (.j target) s) (fun t => OnlyBranch dest s t ∧ ∀ i, t.reg i = s.reg i)
      ∧ Completes (exec (.jal target) s) (fun t => OnlyBranch dest s t ∧ t.reg 31 = s.nextPc ∧ SameRegsBut 31 s t)
      ∧ Completes (exec (.jr rs) s) (fun t => OnlyBranch (s.reg rs) s t ∧ ∀ i, t.reg i = s.reg i)
      ∧ Completes (exec (.jalr rd rs) s) (fun t =>
          OnlyBranch (s.reg rs) s t ∧ t.reg rd = written rd s.nextPc ∧ SameRegsBut rd s t))
    ∧ (s.inDelaySlot = true → ∀ i ∈ [.j target, .jal target, .jr rs, .jalr rd rs],
        exec i s = stopped s (.branchInDelaySlot s.cia))

/-- R229 to R236: the conditional branches, taken and not taken, and their stop in a delay slot (R221). -/
def Obligations.Branches : Prop :=
  (Selects 0xFC000000 0x10000000 fun w => .beq (rsField w) (rtField w) (immField w))
  ∧ (Selects 0xFC000000 0x14000000 fun w => .bne (rsField w) (rtField w) (immField w))
  ∧ (Selects 0xFC000000 0x18000000 fun w => .blez (rsField w) (immField w))
  ∧ (Selects 0xFC000000 0x1C000000 fun w => .bgtz (rsField w) (immField w))
  ∧ (Selects 0xFC1F0000 0x04000000 fun w => .bltz (rsField w) (immField w))
  ∧ (Selects 0xFC1F0000 0x04010000 fun w => .bgez (rsField w) (immField w))
  ∧ (Selects 0xFC1F0000 0x04100000 fun w => .bltzal (rsField w) (immField w))
  ∧ (Selects 0xFC1F0000 0x04110000 fun w => .bgezal (rsField w) (immField w))
  ∧ ∀ (s : State) (rs rt : Reg) (offset : Half), let a := (s.reg rs).toInt
    BranchesOn (exec (.beq rs rt offset) s) (decide (s.reg rs = s.reg rt)) offset s false
    ∧ BranchesOn (exec (.bne rs rt offset) s) (decide (s.reg rs ≠ s.reg rt)) offset s false
    ∧ BranchesOn (exec (.blez rs offset) s) (decide (a ≤ 0)) offset s false
    ∧ BranchesOn (exec (.bgtz rs offset) s) (decide (0 < a)) offset s false
    ∧ BranchesOn (exec (.bltz rs offset) s) (decide (a < 0)) offset s false
    ∧ BranchesOn (exec (.bgez rs offset) s) (decide (0 ≤ a)) offset s false
    ∧ BranchesOn (exec (.bltzal rs offset) s) (decide (a < 0)) offset s true
    ∧ BranchesOn (exec (.bgezal rs offset) s) (decide (0 ≤ a)) offset s true

/-- R221: each of the twelve stops in a delay slot, before any effect, and otherwise marks itself as executed. -/
def Obligations.TransferInDelaySlotStops : Prop :=
  ∀ (i : Instr) (s : State), i.isTransfer = true →
    (s.inDelaySlot = true → exec i s = stopped s (.branchInDelaySlot s.cia))
    ∧ (s.inDelaySlot = false → Completes (exec i s) fun t => t.executedBranch = true)

/-! ## Loads and stores -/

/-- R251: while IsC is set each of the twelve does nothing at all, whatever its address. -/
def Obligations.CacheIsolation : Prop :=
  ∀ (i : Instr) (s : State), i.isAccess = true → s.sr.getLsbD 16 = true → exec i s = .next s

/-- R253 to R257: the aligned loads. -/
def Obligations.Loads : Prop :=
  (Selects 0xFC000000 0x80000000 fun w => .lb (rtField w) (rsField w) (immField w))
  ∧ (Selects 0xFC000000 0x90000000 fun w => .lbu (rtField w) (rsField w) (immField w))
  ∧ (Selects 0xFC000000 0x84000000 fun w => .lh (rtField w) (rsField w) (immField w))
  ∧ (Selects 0xFC000000 0x94000000 fun w => .lhu (rtField w) (rsField w) (immField w))
  ∧ (Selects 0xFC000000 0x8C000000 fun w => .lw (rtField w) (rsField w) (immField w))
  ∧ ∀ (s : State) (rt rs : Reg) (imm : Half), let ea := s.reg rs + imm.signExtend 32
    LoadsFrom (exec (.lb rt rs imm) s) rt ea .byte (fun v => (v.extractLsb' 0 8).signExtend 32) s
    ∧ LoadsFrom (exec (.lbu rt rs imm) s) rt ea .byte (fun v => BitVec.ofNat 32 (v.toNat % 2 ^ 8)) s
    ∧ LoadsFrom (exec (.lh rt rs imm) s) rt ea .half (fun v => (v.extractLsb' 0 16).signExtend 32) s
    ∧ LoadsFrom (exec (.lhu rt rs imm) s) rt ea .half (fun v => BitVec.ofNat 32 (v.toNat % 2 ^ 16)) s
    ∧ LoadsFrom (exec (.lw rt rs imm) s) rt ea .word (fun v => v) s

/-- R261, R262: `lwl` and `lwr`, the merge tables word for word. -/
def Obligations.UnalignedLoads : Prop :=
  (Selects 0xFC000000 0x88000000 fun w => .lwl (rtField w) (rsField w) (immField w))
  ∧ (Selects 0xFC000000 0x98000000 fun w => .lwr (rtField w) (rsField w) (immField w))
  ∧ ∀ (s : State) (rt rs : Reg) (imm : Half), let ea := s.reg rs + imm.signExtend 32
    let c := s.reg rt
    LoadsFrom (exec (.lwl rt rs imm) s) rt (ea &&& 0xFFFFFFFC) .word (fun w =>
      if ea.extractLsb' 0 2 = 0 then (c &&& 0x00FFFFFF) ||| (w <<< 24)
      else if ea.extractLsb' 0 2 = 1 then (c &&& 0x0000FFFF) ||| (w <<< 16)
      else if ea.extractLsb' 0 2 = 2 then (c &&& 0x000000FF) ||| (w <<< 8)
      else w) s
    ∧ LoadsFrom (exec (.lwr rt rs imm) s) rt (ea &&& 0xFFFFFFFC) .word (fun w =>
      if ea.extractLsb' 0 2 = 0 then w
      else if ea.extractLsb' 0 2 = 1 then (c &&& 0xFF000000) ||| (w >>> 8)
      else if ea.extractLsb' 0 2 = 2 then (c &&& 0xFFFF0000) ||| (w >>> 16)
      else (c &&& 0xFFFFFF00) ||| (w >>> 24)) s

/-- R258 to R260: the aligned stores are one write through the Router, and nothing while IsC is set. -/
def Obligations.Stores : Prop :=
  (Selects 0xFC000000 0xA0000000 fun w => .sb (rtField w) (rsField w) (immField w))
  ∧ (Selects 0xFC000000 0xA4000000 fun w => .sh (rtField w) (rsField w) (immField w))
  ∧ (Selects 0xFC000000 0xAC000000 fun w => .sw (rtField w) (rsField w) (immField w))
  ∧ ∀ (s : State) (rt rs : Reg) (imm : Half), let ea := s.reg rs + imm.signExtend 32
    let v := s.reg rt
    (s.sr.getLsbD 16 = true → exec (.sb rt rs imm) s = .next s ∧ exec (.sh rt rs imm) s = .next s
      ∧ exec (.sw rt rs imm) s = .next s)
    ∧ (s.sr.getLsbD 16 = false →
        exec (.sb rt rs imm) s = s.memWrite ea .byte (BitVec.ofNat 32 (v.toNat % 2 ^ 8))
        ∧ exec (.sh rt rs imm) s = s.memWrite ea .half (BitVec.ofNat 32 (v.toNat % 2 ^ 16))
        ∧ exec (.sw rt rs imm) s = s.memWrite ea .word v)

/-- R258 to R260 where the address is in main memory or the scratchpad: the aligned stores complete, the bytes stored
are the low bytes of the register, and every other byte of the address space reads as before. -/
def Obligations.StoresWriteTheirBytes : Prop :=
  ∀ (s : State) (rt rs : Reg) (imm : Half), s.sr.getLsbD 16 = false → s.ram.wf → s.scratch.wf →
    let ea := s.effectiveAddress rs imm
    StoresIn (exec (.sb rt rs imm) s) ea .byte (s.reg rt) s
    ∧ (ea.toNat % 2 = 0 → StoresIn (exec (.sh rt rs imm) s) ea .half (s.reg rt) s)
    ∧ (ea.toNat % 4 = 0 → StoresIn (exec (.sw rt rs imm) s) ea .word (s.reg rt) s)

/-- R263, R264: `swl` and `swr` read the aligned word and write it back merged, the tables word for word; in main
memory and the scratchpad they complete, and no byte outside that word changes. -/
def Obligations.UnalignedStores : Prop :=
  (Selects 0xFC000000 0xA8000000 fun w => .swl (rtField w) (rsField w) (immField w))
  ∧ (Selects 0xFC000000 0xB8000000 fun w => .swr (rtField w) (rsField w) (immField w))
  ∧ ∀ (s : State) (rt rs : Reg) (imm : Half), let ea := s.effectiveAddress rs imm
    let a := ea &&& 0xFFFFFFFC
    let v := s.reg rt
    let left (m : Word) : Word :=
      if ea.extractLsb' 0 2 = 0 then (m &&& 0xFFFFFF00) ||| (v >>> 24)
      else if ea.extractLsb' 0 2 = 1 then (m &&& 0xFFFF0000) ||| (v >>> 16)
      else if ea.extractLsb' 0 2 = 2 then (m &&& 0xFF000000) ||| (v >>> 8)
      else v
    let right (m : Word) : Word :=
      if ea.extractLsb' 0 2 = 0 then v
      else if ea.extractLsb' 0 2 = 1 then (m &&& 0x000000FF) ||| (v <<< 8)
      else if ea.extractLsb' 0 2 = 2 then (m &&& 0x0000FFFF) ||| (v <<< 16)
      else (m &&& 0x00FFFFFF) ||| (v <<< 24)
    (s.sr.getLsbD 16 = true → exec (.swl rt rs imm) s = .next s ∧ exec (.swr rt rs imm) s = .next s)
    ∧ (s.sr.getLsbD 16 = false → ∀ e, s.memRead a .word = .error e →
        exec (.swl rt rs imm) s = stopped s e ∧ exec (.swr rt rs imm) s = stopped s e)
    ∧ (s.sr.getLsbD 16 = false → ∀ m, s.memRead a .word = .ok m →
        exec (.swl rt rs imm) s = s.memWrite a .word (left m) ∧ exec (.swr rt rs imm) s = s.memWrite a .word (right m)
        ∧ (s.ram.wf → s.scratch.wf → StoresIn (exec (.swl rt rs imm) s) a .word (left m) s
            ∧ StoresIn (exec (.swr rt rs imm) s) a .word (right m) s))

/-- R265, the load idiom, either half first: the little-endian word of four bytes of main memory at any address. -/
def Obligations.UnalignedLoadIdiom : Prop :=
  ∀ (s : State) (rt rs : Reg), s.sr.getLsbD 16 = false → rs ≠ rt →
    let e := s.reg rs
    let byte (k : Nat) : Byte := s.ram.read (ramOffset (physOf (e + BitVec.ofNat 32 k)))
    (∀ k : Fin 4, regionOf s.cfg (physOf (e + BitVec.ofNat 32 k)) = .ram) → s.cfg.WellFormed →
    Completes (Result.andThen (exec (.lwl rt rs 3) s) (exec (.lwr rt rs 0)))
      (OnlyRegister rt (byte 3 ++ byte 2 ++ byte 1 ++ byte 0) s)
    ∧ Completes (Result.andThen (exec (.lwr rt rs 0) s) (exec (.lwl rt rs 3)))
      (OnlyRegister rt (byte 3 ++ byte 2 ++ byte 1 ++ byte 0) s)

/-- R265, the store idiom, either half first: four bytes of main memory at any address become the register's bytes,
and no other byte changes. -/
def Obligations.UnalignedStoreIdiom : Prop :=
  ∀ (s : State) (rt rs : Reg), s.sr.getLsbD 16 = false →
    let e := s.reg rs
    let at_ (k : Nat) : Nat := ramOffset (physOf (e + BitVec.ofNat 32 k))
    let stored (t : State) : Prop := OnlyRam s t
      ∧ (∀ k : Fin 4, t.ram.read (at_ k) = (s.reg rt).extractLsb' (8 * k) 8)
      ∧ ∀ o : Nat, (∀ k : Fin 4, o ≠ at_ k) → t.ram.read o = s.ram.read o
    (∀ k : Fin 4, regionOf s.cfg (physOf (e + BitVec.ofNat 32 k)) = .ram) → s.cfg.WellFormed → s.ram.wf →
    Completes (Result.andThen (exec (.swl rt rs 3) s) (exec (.swr rt rs 0))) stored
    ∧ Completes (Result.andThen (exec (.swr rt rs 0) s) (exec (.swl rt rs 3))) stored

/-! ## System instructions -/

/-- R282, R283, R416: `syscall` and `break` take their exception, and stop in a delay slot. -/
def Obligations.TrapInstructions : Prop :=
  (Selects 0xFC00003F 0x0C fun _ => .syscall) ∧ (Selects 0xFC00003F 0x0D fun _ => .brk)
  ∧ ∀ s : State,
    (s.inDelaySlot = false → Completes (exec .syscall s) (TakesException 8 s)
      ∧ Completes (exec .brk s) (TakesException 9 s))
    ∧ (s.inDelaySlot = true → exec .syscall s = stopped s (.exceptionInDelaySlot s.cia 8)
      ∧ exec .brk s = stopped s (.exceptionInDelaySlot s.cia 9))

/-- R281, R285, R286: `mfc0` and `mtc0`, for every register number. -/
def Obligations.CoprocessorMoves : Prop :=
  (Selects 0xFFE00000 0x40000000 fun w => .mfc0 (rtField w) (rdField w))
  ∧ (Selects 0xFFE00000 0x40800000 fun w => .mtc0 (rtField w) (rdField w))
  ∧ ∀ (s : State) (rt : Reg),
    Completes (exec (.mfc0 rt 12) s) (OnlyRegister rt s.sr s)
    ∧ Completes (exec (.mfc0 rt 13) s) (OnlyRegister rt s.cause s)
    ∧ Completes (exec (.mfc0 rt 14) s) (OnlyRegister rt s.epc s)
    ∧ exec (.mtc0 rt 12) s = .next { s with sr := s.reg rt }
    ∧ exec (.mtc0 rt 14) s = .next { s with epc := s.reg rt }
    ∧ (s.reg rt ≠ 0 → exec (.mtc0 rt 13) s = stopped s (.cop0CauseWrite s.cia (s.reg rt)))
    ∧ (s.reg rt = 0 → s.cfg.causeWriteZero = .ignore → exec (.mtc0 rt 13) s = .next s)
    ∧ (s.reg rt = 0 → s.cfg.causeWriteZero = .clear → exec (.mtc0 rt 13) s = .next { s with cause := 0 })
    ∧ ∀ rd : Reg, rd ≠ 12 → rd ≠ 13 → rd ≠ 14 →
        exec (.mfc0 rt rd) s = stopped s (.unknownCop0Register s.cia rd)
        ∧ exec (.mtc0 rt rd) s = stopped s (.unknownCop0Register s.cia rd)

/-- R287: `rfe` moves the mode stack down and nothing else.  R288, which the spec derives from R287 and R416: entry and
then return is the identity on `sr` exactly when the old pair was 0. -/
def Obligations.ReturnFromException : Prop :=
  (Selects 0xFFE0003F 0x42000010 fun _ => .rfe)
  ∧ ∀ s : State,
    exec .rfe s = .next { s with sr := s.sr.extractLsb' 6 26 ++ (0 : BitVec 2) ++ s.sr.extractLsb' 2 4 }
    ∧ (s.inDelaySlot = false → Completes (Result.andThen (exec .syscall s) (exec .rfe)) fun t =>
        (t.sr = s.sr ↔ s.sr.extractLsb' 4 2 = 0))

/-! ## GPU port 0 -/

/-- R358 to R360: the GP0 commands without a payload, in Idle. -/
def Obligations.Gp0PlainCommands : Prop :=
  (SelectsGp0 0x00 fun _ => .gp0Nop) ∧ (SelectsGp0 0x01 fun _ => .gp0CacheFlushStub)
  ∧ (SelectsGp0 0x1F fun _ => .gp0Interrupt)
  ∧ ∀ s : State, s.gpu.mode = .idle →
    exec .gp0Nop s = .next s ∧ exec .gp0CacheFlushStub s = .next s
    ∧ SetsGpu (exec .gp0Interrupt s) s fun g =>
        { g with status := s.gpu.status } = s.gpu
        ∧ ∀ k, k < 32 → g.status.getLsbD k =
            if k = 24 then decide (s.cfg.gp0IrqEffect = .set) else s.gpu.status.getLsbD k

/-- R361 to R366: the GP0 configuration setters, in Idle. -/
def Obligations.Gp0Setters : Prop :=
  (SelectsGp0 0xE1 fun w => .gp0DrawMode (w.extractLsb' 0 11) (w.getLsbD 11) (w.getLsbD 12) (w.getLsbD 13))
  ∧ (SelectsGp0 0xE2 fun w =>
      .gp0TextureWindow (w.extractLsb' 0 5) (w.extractLsb' 5 5) (w.extractLsb' 10 5) (w.extractLsb' 15 5))
  ∧ (SelectsGp0 0xE3 fun w => .gp0DrawAreaTopLeft (w.extractLsb' 0 10) (w.extractLsb' 10 10))
  ∧ (SelectsGp0 0xE4 fun w => .gp0DrawAreaBottomRight (w.extractLsb' 0 10) (w.extractLsb' 10 10))
  ∧ (SelectsGp0 0xE5 fun w => .gp0DrawOffset (w.extractLsb' 0 11).toInt (w.extractLsb' 11 11).toInt)
  ∧ (SelectsGp0 0xE6 fun w => .gp0MaskBits (w.getLsbD 0) (w.getLsbD 1))
  ∧ ∀ s : State, s.gpu.mode = .idle →
    (∀ v td fx fy, SetsGpu (exec (.gp0DrawMode v td fx fy) s) s fun g =>
      { g with status := s.gpu.status } = { s.gpu with rectFlipX := fx, rectFlipY := fy }
      ∧ ∀ k, k < 32 → g.status.getLsbD k =
          if k < 11 then v.getLsbD k else if k = 15 then td else s.gpu.status.getLsbD k)
    ∧ (∀ mx my ox oy, SetsGpu (exec (.gp0TextureWindow mx my ox oy) s) s fun g =>
        g = { s.gpu with twMaskX := mx, twMaskY := my, twOffX := ox, twOffY := oy })
    ∧ (∀ l t, SetsGpu (exec (.gp0DrawAreaTopLeft l t) s) s fun g => g = { s.gpu with daLeft := l, daTop := t })
    ∧ (∀ r b, SetsGpu (exec (.gp0DrawAreaBottomRight r b) s) s fun g => g = { s.gpu with daRight := r, daBottom := b })
    ∧ (∀ x y : Int, -1024 ≤ x → x ≤ 1023 → -1024 ≤ y → y ≤ 1023 →
        SetsGpu (exec (.gp0DrawOffset x y) s) s fun g =>
          g.offX.toInt = x ∧ g.offY.toInt = y ∧ { g with offX := s.gpu.offX, offY := s.gpu.offY } = s.gpu)
    ∧ (∀ set check, SetsGpu (exec (.gp0MaskBits set check) s) s fun g =>
        { g with status := s.gpu.status } = s.gpu
        ∧ ∀ k, k < 32 → g.status.getLsbD k =
            if k = 11 then set else if k = 12 then check else s.gpu.status.getLsbD k)

/-- R371 to R373: the draw commands in Idle, delivered whole: their triangles, once, and the port idle again. -/
def Obligations.Gp0DrawCommands : Prop :=
  (∀ w v0 v1 v2 v3 rest, w.extractLsb' 24 8 = (0x28 : BitVec 8) →
    decode .gp0 (w :: v0 :: v1 :: v2 :: v3 :: rest) = .ok (.gp0MonoQuad (w.extractLsb' 0 24) v0 v1 v2 v3, rest))
  ∧ (∀ w v0 c1 v1 c2 v2 rest, w.extractLsb' 24 8 = (0x30 : BitVec 8) →
    decode .gp0 (w :: v0 :: c1 :: v1 :: c2 :: v2 :: rest) =
      .ok (.gp0ShadedTriangle (w.extractLsb' 0 24) v0 c1 v1 c2 v2, rest))
  ∧ (∀ w v0 c1 v1 c2 v2 c3 v3 rest, w.extractLsb' 24 8 = (0x38 : BitVec 8) →
    decode .gp0 (w :: v0 :: c1 :: v1 :: c2 :: v2 :: c3 :: v3 :: rest) =
      .ok (.gp0ShadedQuad (w.extractLsb' 0 24) v0 c1 v1 c2 v2 c3 v3, rest))
  ∧ ∀ (s : State) (c0 : BitVec 24) (v0 v1 v2 v3 c1 c2 c3 : Word), s.gpu.mode = .idle →
    Draws (exec (.gp0MonoQuad c0 v0 v1 v2 v3) s)
      [.triangle (vertexOf v0 c0) (vertexOf v1 c0) (vertexOf v2 c0),
       .triangle (vertexOf v1 c0) (vertexOf v2 c0) (vertexOf v3 c0)] s
    ∧ Draws (exec (.gp0ShadedTriangle c0 v0 c1 v1 c2 v2) s)
      [.triangle (vertexOf v0 c0) (vertexOf v1 (c1.setWidth 24)) (vertexOf v2 (c2.setWidth 24))] s
    ∧ Draws (exec (.gp0ShadedQuad c0 v0 c1 v1 c2 v2 c3 v3) s)
      [.triangle (vertexOf v0 c0) (vertexOf v1 (c1.setWidth 24)) (vertexOf v2 (c2.setWidth 24)),
       .triangle (vertexOf v1 (c1.setWidth 24)) (vertexOf v2 (c2.setWidth 24)) (vertexOf v3 (c3.setWidth 24))] s

/-- R374, R357: an image load in Idle announces itself and asks for half as many words as pixels, rounded up; that
many data words, whatever they hold, are passed through and the port is idle again; fewer leave it waiting. -/
def Obligations.Gp0ImageLoad : Prop :=
  (∀ w dest size rest, w.extractLsb' 24 8 = (0xA0 : BitVec 8) →
    decode .gp0 (w :: dest :: size :: rest) = .ok (.gp0ImageLoad (w.extractLsb' 0 24) dest size, rest))
  ∧ (∀ (s : State) (low : BitVec 24) (dest size : Word), s.gpu.mode = .idle →
    let w := size.toNat % 0x10000
    let h := size.toNat / 0x10000
    SetsGpu (exec (.gp0ImageLoad low dest size) s) s fun g =>
      g.out = s.gpu.out ++ [.imageLoad (dest.extractLsb' 0 16) (dest.extractLsb' 16 16) (size.extractLsb' 0 16)
        (size.extractLsb' 16 16)]
      ∧ g.fetched = 0 ∧ g.required.toNat = (w * h + 1) / 2
      ∧ g.mode = (if w * h = 0 then .idle else .bufferingTextureData) ∧ OnlyBuffering s.gpu g)
  ∧ ∀ (s : State) (ws : List Word), s.gpu.mode = .bufferingTextureData →
      0 < ws.length → s.gpu.fetched.toNat + ws.length ≤ s.gpu.required.toNat →
      SetsGpu (s.gp0Stream ws) s fun g =>
        g.out = s.gpu.out ++ ws.map .imageWord ∧ OnlyBuffering s.gpu g
        ∧ (s.gpu.fetched.toNat + ws.length = s.gpu.required.toNat → g.mode = .idle ∧ g.fetched = 0 ∧ g.required = 0)
        ∧ (s.gpu.fetched.toNat + ws.length < s.gpu.required.toNat → g.mode = .bufferingTextureData
            ∧ g.fetched.toNat = s.gpu.fetched.toNat + ws.length ∧ g.required = s.gpu.required)

/-- R355: while a command is being buffered a word is data, whatever its top byte, and is stored and counted; no
event appears before the last one. -/
def Obligations.ParametersAreData : Prop :=
  ∀ (s : State) (ws : List Word), s.gpu.mode = .bufferingParams → s.gpu.required.toNat ≤ 12 →
    s.gpu.fetched.toNat + ws.length < s.gpu.required.toNat →
    SetsGpu (s.gp0Stream ws) s fun g =>
      g.mode = .bufferingParams ∧ g.fetched.toNat = s.gpu.fetched.toNat + ws.length
      ∧ g.required = s.gpu.required ∧ g.opcode = s.gpu.opcode ∧ g.out = s.gpu.out
      ∧ (∀ k (h : k < 12), g.buf[k] =
          if s.gpu.fetched.toNat ≤ k ∧ k < s.gpu.fetched.toNat + ws.length then ws.getD (k - s.gpu.fetched.toNat) 0
          else s.gpu.buf[k])
      ∧ OnlyBuffering s.gpu g

/-- A whole command delivered to a port does what the decoded instruction does, its ignored bits having no effect. -/
def Obligations.PortWordsRunDecodedCommands : Prop :=
  (∀ (s : State) (ws : List Word) (i : Instr), s.gpu.mode = .idle → decode .gp0 ws = .ok (i, []) →
    s.gp0Stream ws = exec i s)
  ∧ ∀ (s : State) (w : Word) (i : Instr), decode .gp1 [w] = .ok (i, []) → s.gp1 w = exec i s

/-- R368, R400: a word with no handler stops the machine, on port 0 in Idle and on port 1 always. -/
def Obligations.UnknownCommandsStop : Prop :=
  ∀ (s : State) (w : Word),
    (s.gpu.mode = .idle → (w.extractLsb' 24 8).toNat ∉
        [0x00, 0x01, 0x1F, 0x28, 0x30, 0x38, 0xA0, 0xE1, 0xE2, 0xE3, 0xE4, 0xE5, 0xE6] →
      s.gp0 w = stopped s (.unknownGp0 w))
    ∧ ((w.extractLsb' 24 6).toNat = 1 ∨ 9 ≤ (w.extractLsb' 24 6).toNat → s.gp1 w = stopped s (.unknownGp1 w))

/-! ## GPU port 1 -/

/-- R392: soft reset, in every buffering state. -/
def Obligations.Gp1SoftReset : Prop :=
  (SelectsGp1 0 fun _ => .gp1SoftReset)
  ∧ ∀ s : State, SetsGpu (exec .gp1SoftReset s) s fun g =>
    g = { status := s.gpu.status &&& s.cfg.gpuReadyMask
          twMaskX := 0, twMaskY := 0, twOffX := 0, twOffY := 0
          daLeft := 0, daTop := 0, daRight := 0, daBottom := 0
          offX := 0, offY := 0, rectFlipX := false, rectFlipY := false, dispX := 0, dispY := 0
          hStart := s.cfg.hStartDefault, hEnd := s.cfg.hEndDefault
          vStart := s.cfg.vStartDefault, vEnd := s.cfg.vEndDefault
          out := s.gpu.out
          mode := .idle, fetched := 0, required := 0, opcode := 0, buf := Vector.replicate 12 0 }

/-- R391, R393 to R399: the other GP1 commands, in every buffering state, which none of them touches. -/
def Obligations.Gp1Commands : Prop :=
  (SelectsGp1 2 fun _ => .gp1InterruptAcknowledge)
  ∧ (SelectsGp1 3 fun w => .gp1DisplayEnable (w.getLsbD 0))
  ∧ (SelectsGp1 4 fun w => .gp1DmaDirection (w.extractLsb' 0 2))
  ∧ (SelectsGp1 5 fun w => .gp1DisplayOrigin (w.extractLsb' 0 10) (w.extractLsb' 10 9))
  ∧ (SelectsGp1 6 fun w => .gp1HorizontalRange (w.extractLsb' 0 12) (w.extractLsb' 12 12))
  ∧ (SelectsGp1 7 fun w => .gp1VerticalRange (w.extractLsb' 0 10) (w.extractLsb' 10 10))
  ∧ (SelectsGp1 8 fun w => .gp1DisplayMode (w.extractLsb' 0 2) (w.getLsbD 2) (w.getLsbD 3) (w.getLsbD 4)
      (w.getLsbD 5) (w.getLsbD 6) (w.getLsbD 7))
  ∧ ∀ s : State,
    let setsStatus (r : Result) (bits : Nat → Bool) : Prop := SetsGpu r s fun g =>
      { g with status := s.gpu.status } = s.gpu ∧ ∀ k, k < 32 → g.status.getLsbD k = bits k
    let old (k : Nat) : Bool := s.gpu.status.getLsbD k
    setsStatus (exec .gp1InterruptAcknowledge s) (fun k => if k = 24 then false else old k)
    ∧ (∀ off, setsStatus (exec (.gp1DisplayEnable off) s) fun k => if k = 23 then off else old k)
    ∧ (∀ d, setsStatus (exec (.gp1DmaDirection d) s) fun k =>
        if k = 29 then d.getLsbD 0 else if k = 30 then d.getLsbD 1 else old k)
    ∧ (∀ x y, SetsGpu (exec (.gp1DisplayOrigin x y) s) s fun g => g = { s.gpu with dispX := x, dispY := y })
    ∧ (∀ a b, SetsGpu (exec (.gp1HorizontalRange a b) s) s fun g => g = { s.gpu with hStart := a, hEnd := b })
    ∧ (∀ a b, SetsGpu (exec (.gp1VerticalRange a b) s) s fun g => g = { s.gpu with vStart := a, vEnd := b })
    ∧ (∀ h1 vres pal d24 il h2 rev, setsStatus (exec (.gp1DisplayMode h1 vres pal d24 il h2 rev) s) fun k =>
        if k = 17 then h1.getLsbD 0 else if k = 18 then h1.getLsbD 1 else if k = 19 then vres
        else if k = 20 then pal else if k = 21 then d24 else if k = 22 then il else if k = 16 then h2
        else if k = 14 then rev else old k)

/-! ## The host -/

/-- R447: sideloading an executable between two steps, and presetting main memory, which is the copy alone. -/
def Obligations.HostSideload : Prop :=
  ∀ (s : State) (entry gp sp dest : Word) (bytes : List Byte), s.ram.wf → bytes.length ≤ 0x200000 →
    let t := s.hostSideload entry gp sp dest bytes
    let at_ (i : Nat) : Nat := (dest.toNat + i) % 0x200000
    (∀ i (h : i < bytes.length), t.ram.read (at_ i) = bytes[i])
    ∧ (∀ o : Nat, (∀ i, i < bytes.length → o ≠ at_ i) → t.ram.read o = s.ram.read o)
    ∧ t.currentPc = entry ∧ t.nextPc = entry + 4 ∧ t.executedBranch = false ∧ t.inDelaySlot = false
    ∧ t.reg 28 = gp ∧ t.reg 29 = sp ∧ t.reg 30 = sp
    ∧ (∀ r : Reg, r ≠ 28 → r ≠ 29 → r ≠ 30 → t.reg r = s.reg r)
    ∧ { t with ram := s.ram, currentPc := s.currentPc, nextPc := s.nextPc, executedBranch := s.executedBranch,
               inDelaySlot := s.inDelaySlot, regs := s.regs } = s
    ∧ s.hostPreset dest bytes = { s with ram := t.ram }
end

