-- ==== Sys2Proof/Laws/Decode.lean ====
section
/-!
SUPPORT. The encoder's word formats read back field by field (R121 to R124), and the same for the GPU words.
-/

namespace Sys2Proof

/-! ## Fields of a concatenation -/

/-- A field that lies whole in the high part of a concatenation. -/
theorem extractLsb'_append_high {n m k : Nat} (x : BitVec n) (y : BitVec m) (lo : Nat) (h : m ≤ lo) :
    (x ++ y).extractLsb' lo k = x.extractLsb' (lo - m) k := by
  ext i hi
  simp only [BitVec.getElem_extractLsb', BitVec.getLsbD_append]
  rw [if_neg (by omega)]
  congr 1
  omega

/-- A field that lies whole in the low part of a concatenation. -/
theorem extractLsb'_append_low {n m k : Nat} (x : BitVec n) (y : BitVec m) (lo : Nat) (h : lo + k ≤ m) :
    (x ++ y).extractLsb' lo k = y.extractLsb' lo k := by
  ext i hi
  simp only [BitVec.getElem_extractLsb', BitVec.getLsbD_append]
  rw [if_pos (by omega)]

theorem extractLsb'_whole {n : Nat} (x : BitVec n) : x.extractLsb' 0 n = x := by
  ext i hi
  simp

theorem getLsbD_bit (b : Bool) : (bit b).getLsbD 0 = b := by cases b <;> rfl

/-! ## R format -/

section

variable (op : BitVec 6) (rs rt rd sh : BitVec 5) (fn : BitVec 6)

@[simp] theorem opField_rWord : opField (rWord op rs rt rd sh fn) = op := by
  simp only [opField, rWord]
  repeat rw [extractLsb'_append_high _ _ _ (by decide)]
  exact extractLsb'_whole op

@[simp] theorem rsField_rWord : rsField (rWord op rs rt rd sh fn) = rs := by
  simp only [rsField, rWord]
  iterate 4 rw [extractLsb'_append_high _ _ _ (by decide)]
  rw [extractLsb'_append_low _ _ _ (by decide)]
  exact extractLsb'_whole rs

@[simp] theorem rtField_rWord : rtField (rWord op rs rt rd sh fn) = rt := by
  simp only [rtField, rWord]
  iterate 3 rw [extractLsb'_append_high _ _ _ (by decide)]
  rw [extractLsb'_append_low _ _ _ (by decide)]
  exact extractLsb'_whole rt

@[simp] theorem rdField_rWord : rdField (rWord op rs rt rd sh fn) = rd := by
  simp only [rdField, rWord]
  iterate 2 rw [extractLsb'_append_high _ _ _ (by decide)]
  rw [extractLsb'_append_low _ _ _ (by decide)]
  exact extractLsb'_whole rd

@[simp] theorem shamtField_rWord : shamtField (rWord op rs rt rd sh fn) = sh := by
  simp only [shamtField, rWord]
  rw [extractLsb'_append_high _ _ _ (by decide), extractLsb'_append_low _ _ _ (by decide)]
  exact extractLsb'_whole sh

@[simp] theorem functField_rWord : functField (rWord op rs rt rd sh fn) = fn := by
  simp only [functField, rWord]
  rw [extractLsb'_append_low _ _ _ (by decide)]
  exact extractLsb'_whole fn

end

/-! ## I and J formats -/

section

variable (op : BitVec 6) (rs rt : BitVec 5) (imm : Half) (target : BitVec 26)

@[simp] theorem opField_iWord : opField (iWord op rs rt imm) = op := by
  simp only [opField, iWord]
  repeat rw [extractLsb'_append_high _ _ _ (by decide)]
  exact extractLsb'_whole op

@[simp] theorem rsField_iWord : rsField (iWord op rs rt imm) = rs := by
  simp only [rsField, iWord]
  iterate 2 rw [extractLsb'_append_high _ _ _ (by decide)]
  rw [extractLsb'_append_low _ _ _ (by decide)]
  exact extractLsb'_whole rs

@[simp] theorem rtField_iWord : rtField (iWord op rs rt imm) = rt := by
  simp only [rtField, iWord]
  rw [extractLsb'_append_high _ _ _ (by decide), extractLsb'_append_low _ _ _ (by decide)]
  exact extractLsb'_whole rt

@[simp] theorem immField_iWord : immField (iWord op rs rt imm) = imm := by
  simp only [immField, iWord]
  rw [extractLsb'_append_low _ _ _ (by decide)]
  exact extractLsb'_whole imm

@[simp] theorem opField_jWord : opField (jWord op target) = op := by
  simp only [opField, jWord]
  rw [extractLsb'_append_high _ _ _ (by decide)]
  exact extractLsb'_whole op

@[simp] theorem targetField_jWord : targetField (jWord op target) = target := by
  simp only [targetField, jWord]
  rw [extractLsb'_append_low _ _ _ (by decide)]
  exact extractLsb'_whole target

end

/-! ## GPU words -/

section

variable (op : BitVec 8) (payload : BitVec 24)

@[simp] theorem gp0Op_gpuWord : gp0Op (gpuWord op payload) = op := by
  simp only [gp0Op, gpuWord]
  rw [extractLsb'_append_high _ _ _ (by decide)]
  exact extractLsb'_whole op

@[simp] theorem low24_gpuWord : low24 (gpuWord op payload) = payload := by
  simp only [low24, gpuWord]
  rw [extractLsb'_append_low _ _ _ (by decide)]
  exact extractLsb'_whole payload

theorem gp1Op_gpuWord : gp1Op (gpuWord op payload) = op.extractLsb' 0 6 := by
  simp only [gp1Op, gpuWord]
  rw [extractLsb'_append_high _ _ _ (by decide)]

/-- A field of the payload of a GPU word. -/
theorem extractLsb'_gpuWord (lo k : Nat) (h : lo + k ≤ 24) :
    (gpuWord op payload).extractLsb' lo k = payload.extractLsb' lo k := extractLsb'_append_low _ _ _ h

/-- A bit of the payload of a GPU word. -/
theorem getLsbD_gpuWord (i : Nat) (h : i < 24) : (gpuWord op payload).getLsbD i = payload.getLsbD i := by
  simp only [gpuWord, BitVec.getLsbD_append, if_pos h]

end

/-! ## Bytes and words (R75) -/

/-- A word's bytes put together again. -/
theorem wordOfBytes_bytes (w : Word) :
    wordOfBytes (w.extractLsb' 0 8) (w.extractLsb' 8 8) (w.extractLsb' 16 8) (w.extractLsb' 24 8) = w := by
  simp only [wordOfBytes]
  ext i hi
  simp only [BitVec.getElem_append, BitVec.getElem_extractLsb']
  split <;> (try split) <;> (try split) <;> (rw [BitVec.getLsbD_eq_getElem (by omega)]; congr 1; omega)

end Sys2Proof
end

