-- ==== Sys2Proof/Laws/Result.lean ====
section
/-!
SUPPORT. Outcomes: how a sequence of operations ends (R411), and that a stop is never a next state.
-/

namespace Sys2Proof.Machine

@[simp] theorem Result.next_andThen (s : State) (f : State → Result) : Result.andThen (.next s) f = f s := rfl

@[simp] theorem Result.fault_andThen (e : Fault) (f : State → Result) : Result.andThen (.fault e) f = .fault e := rfl

@[simp] theorem Result.refused_andThen (e : Refusal) (f : State → Result) :
    Result.andThen (.refused e) f = .refused e := rfl

/-- A sequence has a next state exactly when both parts have. -/
theorem Result.andThen_eq_next {r : Result} {f : State → Result} {t : State} :
    r.andThen f = .next t ↔ ∃ s, r = .next s ∧ f s = .next t := by
  cases r <;> simp

/-- A sequence faults when its first part does, or its second after the first. -/
theorem Result.andThen_eq_fault {r : Result} {f : State → Result} {e : Fault} :
    r.andThen f = .fault e ↔ r = .fault e ∨ ∃ s, r = .next s ∧ f s = .fault e := by
  cases r <;> simp

theorem Result.andThen_assoc (r : Result) (f g : State → Result) :
    (r.andThen f).andThen g = r.andThen fun s => (f s).andThen g := by
  cases r <;> rfl

@[simp] theorem State.stop_ne_next (s t : State) (r : FatalReason) : s.stop r ≠ .next t := nofun

theorem State.stop_eq (s : State) (r : FatalReason) : s.stop r = stopped s r := rfl

/-! ## Exception entry and the overflow trap -/

/-- `raise` goes on exactly outside a delay slot, and then it is exception entry (R416). -/
theorem State.raise_eq_next {s t : State} {c : BitVec 5} :
    s.raise c = .next t ↔ s.inDelaySlot = false ∧ t = s.enterException c := by
  unfold State.raise
  cases s.inDelaySlot <;> simp
  exact eq_comm

/-- The overflow trap goes on exactly when `OVF_MODE` is exception and no delay slot holds the instruction. -/
theorem State.overflowTrap_eq_next {s t : State} :
    s.overflowTrap = .next t ↔ s.cfg.ovfMode = .exception ∧ s.inDelaySlot = false ∧ t = s.enterException codeOv := by
  unfold State.overflowTrap
  cases s.cfg.ovfMode <;> simp [State.raise_eq_next]

/-- What an add, addi or sub can do: write its destination, and trap from there when it overflows (R151). -/
theorem State.writeThenTrap_eq_next {s t : State} {rd : Reg} {r : Word} {ov : Bool} :
    s.writeThenTrap rd r ov = .next t ↔
      (ov = false ∧ t = s.setReg rd r) ∨
      (ov = true ∧ s.cfg.ovfMode = .exception ∧ s.inDelaySlot = false ∧ t = (s.setReg rd r).enterException codeOv) := by
  unfold State.writeThenTrap
  cases ov
  · simp
    exact eq_comm
  · simp [State.overflowTrap_eq_next]
    rw [show (s.setReg rd r).cfg = s.cfg by unfold State.setReg; split <;> rfl,
      show (s.setReg rd r).inDelaySlot = s.inDelaySlot by unfold State.setReg; split <;> rfl]

/-- A control transfer goes on exactly outside a delay slot (R221). -/
theorem State.branchEntry_eq_next {s t : State} {f : State → State} :
    s.branchEntry f = .next t ↔ s.inDelaySlot = false ∧ t = f { s with executedBranch := true } := by
  unfold State.branchEntry
  cases s.inDelaySlot <;> simp
  exact eq_comm

end Sys2Proof.Machine
end

