-- ==== Sys2Proof/Laws/Gpu.lean ====
section
/-!
SUPPORT. The GPU ports: what a word handed to a port can do to the machine, streams of words, and R60 and R51 kept by
every word.
-/

namespace Sys2Proof.Machine

/-! ## The ports -/

/-- Everything a port write can do to the machine: the GPU's next state, and nothing else. -/
theorem State.afterGpu_eq_next {s t : State} {r : GpuResult} :
    s.afterGpu r = .next t ↔ ∃ g, r = .next g ∧ t = { s with gpu := g } := by
  cases r <;> simp [State.afterGpu, eq_comm]
  nofun

theorem State.gp0_eq_next {s t : State} {w : Word} :
    s.gp0 w = .next t ↔ ∃ g, s.gpu.gp0 s.cfg w = .next g ∧ t = { s with gpu := g } := State.afterGpu_eq_next

theorem State.gp1_eq_next {s t : State} {w : Word} :
    s.gp1 w = .next t ↔ ∃ g, s.gpu.gp1 s.cfg w = .next g ∧ t = { s with gpu := g } := State.afterGpu_eq_next

/-- A GP0 word changes the GPU and nothing else. -/
theorem State.gp0_only {s t : State} {w : Word} (h : s.gp0 w = .next t) : OnlyGpu s t := by
  obtain ⟨g, -, rfl⟩ := State.gp0_eq_next.1 h; rfl

theorem State.gp1_only {s t : State} {w : Word} (h : s.gp1 w = .next t) : OnlyGpu s t := by
  obtain ⟨g, -, rfl⟩ := State.gp1_eq_next.1 h; rfl

/-! ## Streams -/

@[simp] theorem State.gp0Stream_nil (s : State) : s.gp0Stream [] = .next s := rfl

theorem State.gp0Stream_cons (s : State) (w : Word) (ws : List Word) :
    s.gp0Stream (w :: ws) = (s.gp0 w).andThen fun s' => s'.gp0Stream ws := by
  simp only [State.gp0Stream]; cases s.gp0 w <;> rfl

theorem State.gp0Stream_append (s : State) (ws vs : List Word) :
    s.gp0Stream (ws ++ vs) = (s.gp0Stream ws).andThen fun s' => s'.gp0Stream vs := by
  induction ws generalizing s with
  | nil => rfl
  | cons w ws ih => simp only [List.cons_append, State.gp0Stream_cons, Result.andThen_assoc, ih]

@[simp] theorem State.gp0Stream_singleton (s : State) (w : Word) : s.gp0Stream [w] = s.gp0 w := by
  rw [State.gp0Stream_cons]; cases s.gp0 w <;> rfl

@[simp] theorem State.gp1Stream_nil (s : State) : s.gp1Stream [] = .next s := rfl

theorem State.gp1Stream_cons (s : State) (w : Word) (ws : List Word) :
    s.gp1Stream (w :: ws) = (s.gp1 w).andThen fun s' => s'.gp1Stream ws := by
  simp only [State.gp1Stream]; cases s.gp1 w <;> rfl

@[simp] theorem State.gp1Stream_singleton (s : State) (w : Word) : s.gp1Stream [w] = s.gp1 w := by
  rw [State.gp1Stream_cons]; cases s.gp1 w <;> rfl

/-- What holds of a state and is kept by every GP0 word is kept by every stream of them. -/
theorem State.gp0Stream_keeps {P : State → Prop} (hP : ∀ s w t, P s → s.gp0 w = .next t → P t) {ws : List Word}
    {s t : State} (hs : P s) (h : s.gp0Stream ws = .next t) : P t := by
  induction ws generalizing s with
  | nil => cases h; exact hs
  | cons w ws ih =>
    rw [State.gp0Stream_cons, Result.andThen_eq_next] at h
    obtain ⟨s', h1, h2⟩ := h
    exact ih (hP s w s' hs h1) h2

/-- What a GP1 command, one word, keeps. -/
theorem State.gp1Stream_keeps {P : State → Prop} (hP : ∀ s w t, P s → s.gp1 w = .next t → P t) {ws : List Word}
    {s t : State} (hs : P s) (h : s.gp1Stream ws = .next t) : P t := by
  induction ws generalizing s with
  | nil => cases h; exact hs
  | cons w ws ih =>
    rw [State.gp1Stream_cons, Result.andThen_eq_next] at h
    obtain ⟨s', h1, h2⟩ := h
    exact ih (hP s w s' hs h1) h2

/-! ## Fields of a status word -/

/-- A field written into a word: the other bits stay, so a mask that misses the field sees no change. -/
theorem and_putField {n : Nat} (w m : Word) (lo : Nat) (v : BitVec n)
    (h : m &&& ((BitVec.allOnes n).setWidth 32 <<< lo) = 0) : m &&& putField w lo v = m &&& w := by
  ext i hi
  have hb : (m &&& ((BitVec.allOnes n).setWidth 32 <<< lo)).getLsbD i = (0 : Word).getLsbD i := by rw [h]
  simp only [BitVec.getLsbD_and, BitVec.getLsbD_shiftLeft, BitVec.getLsbD_setWidth, BitVec.getLsbD_allOnes] at hb
  simp only [putField, BitVec.getElem_and, BitVec.getElem_or, BitVec.getElem_not, BitVec.getElem_shiftLeft,
    BitVec.getElem_setWidth]
  by_cases h1 : i < lo
  · simp [h1]
  · by_cases h2 : i - lo < n
    · simp [h1, h2, hi, show i - lo < 32 by omega] at hb
      simp [hb]
    · simp [h1, h2, BitVec.getLsbD_of_ge v (i - lo) (by omega)]

/-! ## R60 -/

/-- R60 holds in Idle with no words counted. -/
theorem Gpu.bufferingInv_idle {g : Gpu} (hm : g.mode = .idle) (hf : g.fetched = 0) (hr : g.required = 0) :
    g.BufferingInv := by
  simp [Gpu.BufferingInv, hm, hf, hr]

/-- R60 looks at the buffering fields only. -/
theorem Gpu.bufferingInv_congr {g g' : Gpu} (h : g.BufferingInv) (hm : g'.mode = g.mode) (hf : g'.fetched = g.fetched)
    (hr : g'.required = g.required) (ho : g'.opcode = g.opcode) (hb : g'.buf = g.buf) : g'.BufferingInv := by
  unfold Gpu.BufferingInv at *
  rw [hm, hf, hr, ho, hb]
  exact h

/-- A multi-word command begins with one word counted, its own. -/
theorem Gpu.bufferingInv_begin (g : Gpu) (op : BitVec 8) (w : Word) (hop : gp0Op w = op)
    (h : op = 0x28 ∨ op = 0x30 ∨ op = 0x38 ∨ op = 0xA0) : (g.begin_ op w).BufferingInv := by
  rcases h with rfl | rfl | rfl | rfl <;> simp [Gpu.BufferingInv, Gpu.begin_, gp0Len, hop]

theorem Gpu.bufferingInv_beginImageLoad (g : Gpu) : g.beginImageLoad.BufferingInv := by
  unfold Gpu.beginImageLoad
  simp only
  split
  · simp [Gpu.BufferingInv]
  · next h =>
    simp only [Gpu.BufferingInv]
    exact Nat.pos_of_ne_zero fun e => h (BitVec.eq_of_toNat_eq e)

/-- A dispatch leaves the buffer consistent. -/
theorem Gpu.bufferingInv_dispatch {g g' : Gpu} (h : g.dispatch = .next g') : g'.BufferingInv := by
  unfold Gpu.dispatch at h
  split at h <;> cases h
  · exact Gpu.bufferingInv_idle rfl rfl rfl
  · exact Gpu.bufferingInv_idle rfl rfl rfl
  · exact Gpu.bufferingInv_idle rfl rfl rfl
  · exact Gpu.bufferingInv_beginImageLoad g

/-- A dispatch has a case for each opcode R60 allows. -/
theorem Gpu.dispatch_not_refused {g : Gpu}
    (h : g.opcode = 0x28 ∨ g.opcode = 0x30 ∨ g.opcode = 0x38 ∨ g.opcode = 0xA0) : ∃ g', g.dispatch = .next g' := by
  rcases h with h | h | h | h <;> simp [Gpu.dispatch, h]

/-- A word in Idle keeps R60. -/
theorem Gpu.bufferingInv_gp0Idle {c : Config} {g g' : Gpu} {w : Word} (hg : g.BufferingInv)
    (h : g.gp0Idle c w = .next g') : g'.BufferingInv := by
  unfold Gpu.gp0Idle at h
  split at h <;> cases h
  · exact hg
  · exact hg
  · unfold Gpu.interruptCommand
    split <;> exact Gpu.bufferingInv_congr hg rfl rfl rfl rfl rfl
  · exact Gpu.bufferingInv_congr hg rfl rfl rfl rfl rfl
  · exact Gpu.bufferingInv_congr hg rfl rfl rfl rfl rfl
  · exact Gpu.bufferingInv_congr hg rfl rfl rfl rfl rfl
  · exact Gpu.bufferingInv_congr hg rfl rfl rfl rfl rfl
  · exact Gpu.bufferingInv_congr hg rfl rfl rfl rfl rfl
  · exact Gpu.bufferingInv_congr hg rfl rfl rfl rfl rfl
  all_goals
    exact Gpu.bufferingInv_begin g _ w (BitVec.eq_of_toNat_eq (by simpa using by assumption)) (by simp)

/-- A parameter word keeps R60. -/
theorem Gpu.bufferingInv_gp0Param {g g' : Gpu} {w : Word} (hg : g.BufferingInv) (hm : g.mode = .bufferingParams)
    (h : g.gp0Param w = .next g') : g'.BufferingInv := by
  simp only [Gpu.BufferingInv, hm] at hg
  obtain ⟨h1, h2, h3, h4, h5⟩ := hg
  unfold Gpu.gp0Param at h
  simp only at h
  split at h
  · split at h
    · exact Gpu.bufferingInv_dispatch h
    · next hlt hne =>
      cases h
      simp only [Gpu.BufferingInv, hm]
      have hne' : (g.fetched + 1).toNat ≠ g.required.toNat := fun e => hne (BitVec.eq_of_toNat_eq e)
      rw [BitVec.toNat_add] at hne' ⊢
      simp at hne' ⊢
      refine ⟨by omega, by omega, h3, h4, ?_⟩
      rw [Vector.getElem_set_ne _ _ (by omega)]
      exact h5
  · cases h

/-- A data word keeps R60. -/
theorem Gpu.bufferingInv_gp0Texel {g : Gpu} (w : Word) (hg : g.BufferingInv) (hm : g.mode = .bufferingTextureData) :
    (g.gp0Texel w).BufferingInv := by
  simp only [Gpu.BufferingInv, hm] at hg
  unfold Gpu.gp0Texel
  simp only
  split
  · exact Gpu.bufferingInv_idle rfl rfl rfl
  · next hne =>
    simp only [Gpu.BufferingInv, Gpu.emit, hm]
    have hne' : (g.fetched + 1).toNat ≠ g.required.toNat := fun e => hne (BitVec.eq_of_toNat_eq e)
    rw [BitVec.toNat_add] at hne' ⊢
    simp at hne' ⊢
    omega

/-- Every GP0 word keeps R60. -/
theorem Gpu.bufferingInv_gp0 {c : Config} {g g' : Gpu} {w : Word} (hg : g.BufferingInv)
    (h : g.gp0 c w = .next g') : g'.BufferingInv := by
  unfold Gpu.gp0 at h
  split at h
  · exact Gpu.bufferingInv_gp0Idle hg h
  · exact Gpu.bufferingInv_gp0Param hg (by assumption) h
  · cases h; exact Gpu.bufferingInv_gp0Texel w hg (by assumption)

/-- Under R60 no GP0 word is without meaning: it has a next state or is an unknown command. -/
theorem Gpu.gp0_not_refused {c : Config} {g : Gpu} {w : Word} (hg : g.BufferingInv) (r : Refusal) :
    g.gp0 c w ≠ .refused r := by
  unfold Gpu.gp0
  split
  · unfold Gpu.gp0Idle
    split <;> nofun
  · next hm =>
    simp only [Gpu.BufferingInv, hm] at hg
    obtain ⟨h1, h2, h3, h4, h5⟩ := hg
    unfold Gpu.gp0Param
    have hlt : g.fetched.toNat < 12 := by omega
    rw [dif_pos hlt]
    simp only
    split
    · intro h
      obtain ⟨g', hg'⟩ := Gpu.dispatch_not_refused
        (g := { g with buf := g.buf.set g.fetched.toNat w hlt, fetched := g.fetched + 1 }) h4
      rw [hg'] at h
      cases h
    · nofun
  · nofun

/-- Every GP1 word keeps R60: soft reset is Idle, and no other GP1 word touches the buffering state (R391). -/
theorem Gpu.bufferingInv_gp1 {c : Config} {g g' : Gpu} {w : Word} (hg : g.BufferingInv)
    (h : g.gp1 c w = .next g') : g'.BufferingInv := by
  unfold Gpu.gp1 at h
  split at h <;> cases h
  · exact Gpu.bufferingInv_idle rfl rfl rfl
  all_goals exact Gpu.bufferingInv_congr hg rfl rfl rfl rfl rfl

/-! ## R51: the status bits no rule writes -/

theorem Gpu.constantBits_putField {c : Config} {n : Nat} {lo : Nat} {v : BitVec n} (st : Word)
    (hst : st &&& ~~~Config.statusWritten = c.gpuReadyMask)
    (hm : ~~~Config.statusWritten &&& ((BitVec.allOnes n).setWidth 32 <<< lo) = 0) :
    putField st lo v &&& ~~~Config.statusWritten = c.gpuReadyMask := by
  rw [BitVec.and_comm, and_putField st _ lo v hm, BitVec.and_comm, hst]

theorem Gpu.constantBits_dispatch {c : Config} {g g' : Gpu} (hg : g.ConstantBits c) (h : g.dispatch = .next g') :
    g'.ConstantBits c := by
  unfold Gpu.dispatch at h
  split at h <;> cases h
  · exact hg
  · exact hg
  · exact hg
  · unfold Gpu.beginImageLoad
    simp only
    split <;> exact hg

/-- Every GP0 word leaves the bits that no rule writes. -/
theorem Gpu.constantBits_gp0 {c : Config} {g g' : Gpu} {w : Word} (hg : g.ConstantBits c)
    (h : g.gp0 c w = .next g') : g'.ConstantBits c := by
  unfold Gpu.gp0 at h
  split at h
  · unfold Gpu.gp0Idle at h
    split at h <;> cases h
    · exact hg
    · exact hg
    · unfold Gpu.interruptCommand
      split <;> exact Gpu.constantBits_putField _ hg (by decide)
    · exact Gpu.constantBits_putField _ (Gpu.constantBits_putField _ hg (by decide)) (by decide)
    · exact hg
    · exact hg
    · exact hg
    · exact hg
    · exact Gpu.constantBits_putField _ (Gpu.constantBits_putField _ hg (by decide)) (by decide)
    all_goals exact hg
  · unfold Gpu.gp0Param at h
    simp only at h
    split at h
    · split at h
      · exact Gpu.constantBits_dispatch (c := c) (by exact hg) h
      · cases h; exact hg
    · cases h
  · cases h
    unfold Gpu.gp0Texel
    simp only
    split <;> exact hg

/-- Every GP1 word leaves the bits that no rule writes. -/
theorem Gpu.constantBits_gp1 {c : Config} {g g' : Gpu} {w : Word}
    (hg : g.ConstantBits c) (h : g.gp1 c w = .next g') : g'.ConstantBits c := by
  unfold Gpu.gp1 at h
  split at h <;> cases h
  · unfold Gpu.ConstantBits at *
    have hr : c.gpuReadyMask &&& ~~~Config.statusWritten = c.gpuReadyMask := by
      rw [← hg, BitVec.and_assoc, BitVec.and_self]
    show g.status &&& c.gpuReadyMask &&& ~~~Config.statusWritten = c.gpuReadyMask
    rw [BitVec.and_assoc, hr, ← hg, ← BitVec.and_assoc, BitVec.and_self]
  · exact Gpu.constantBits_putField _ hg (by decide)
  · exact Gpu.constantBits_putField _ hg (by decide)
  · exact Gpu.constantBits_putField _ hg (by decide)
  · exact hg
  · exact hg
  · exact hg
  · unfold Gpu.setDisplayMode
    simp only
    repeat' first
      | exact hg
      | refine Gpu.constantBits_putField _ ?_ (by decide)

end Sys2Proof.Machine
end

