-- ==== Sys2Proof/Laws/Memory.lean ====
section
/-!
SUPPORT. Memory: a read after a write, the canonical form and the size kept by every write, and that two memories in
canonical form that read alike are one list.
-/

namespace Sys2Proof.Machine.Memory

/-! ## One byte -/

@[simp] theorem read_nil (o : Nat) : read [] o = unlisted := rfl

/-- An offset below every listed one is unlisted. -/
theorem read_eq_unlisted (m : Memory) (o : Nat) (h : ∀ c ∈ m, o < c.1) : m.read o = unlisted := by
  induction m with
  | nil => rfl
  | cons c m ih =>
    have hc := h c (by simp)
    rw [read, if_neg (by omega)]
    exact ih fun c' hc' => h c' (by simp [hc'])

/-- The cells after the first lie above it. -/
theorem wf_tail {k : Nat} {v : Byte} {m : Memory} (h : Memory.wf ((k, v) :: m)) :
    Memory.wf m ∧ (∀ c ∈ m, k < c.1) ∧ v ≠ unlisted := by
  obtain ⟨hs, hv⟩ := h
  rw [List.pairwise_cons] at hs
  exact ⟨⟨hs.2, fun c hc => hv c (by simp [hc])⟩, hs.1, hv (k, v) (by simp)⟩

theorem wf_cons {k : Nat} {v : Byte} {m : Memory} (h : Memory.wf m) (hk : ∀ c ∈ m, k < c.1) (hv : v ≠ unlisted) :
    Memory.wf ((k, v) :: m) := by
  refine ⟨List.pairwise_cons.2 ⟨hk, h.1⟩, ?_⟩
  intro c hc
  rcases List.mem_cons.1 hc with rfl | hc
  · exact hv
  · exact h.2 c hc

/-- A write touches no offset but its own. -/
theorem read_write_other (m : Memory) (o p : Nat) (b : Byte) (h : p ≠ o) : (m.write o b).read p = m.read p := by
  induction m with
  | nil => simp only [write]; split <;> simp [read, h]
  | cons c m ih =>
    obtain ⟨k, v⟩ := c
    simp only [write]
    split
    · split <;> simp [read, h]
    · split
      · next hk => split <;> simp [read, hk ▸ h, h]
      · simp [read, ih]

/-- A read after a write to the same offset, of a memory in canonical form. -/
theorem read_write_self (m : Memory) (hm : m.wf) (o : Nat) (b : Byte) : (m.write o b).read o = b := by
  induction m with
  | nil => simp only [write]; split <;> simp_all [read]
  | cons c m ih =>
    obtain ⟨k, v⟩ := c
    obtain ⟨hw, hlt, -⟩ := wf_tail hm
    simp only [write]
    split
    · next h =>
      split
      · next hb =>
        rw [hb]
        refine read_eq_unlisted _ o fun c hc => ?_
        rcases List.mem_cons.1 hc with rfl | hc
        · exact h
        · exact Nat.lt_trans h (hlt c hc)
      · simp [read]
    · split
      · next h =>
        split
        · next hb => rw [hb]; exact read_eq_unlisted _ o fun c hc => h ▸ hlt c hc
        · simp [read]
      · next h => simp [read, h, ih hw]

/-- What one read gives after one write. -/
theorem read_write (m : Memory) (hm : m.wf) (o p : Nat) (b : Byte) :
    (m.write o b).read p = if p = o then b else m.read p := by
  split
  · next h => rw [h, read_write_self m hm]
  · next h => exact read_write_other m o p b h

/-- A cell after a write is the new one or an old one. -/
theorem mem_write {m : Memory} {o : Nat} {b : Byte} {c : Host.Cell} (h : c ∈ m.write o b) :
    c = (o, b) ∨ c ∈ m := by
  induction m with
  | nil => simp only [write] at h; split at h <;> simp_all
  | cons d m ih =>
    obtain ⟨k, v⟩ := d
    simp only [write] at h
    split at h
    · split at h <;> simp_all
    · split at h
      · split at h
        · exact .inr (List.mem_cons_of_mem _ h)
        · rcases List.mem_cons.1 h with h | h
          · exact .inl h
          · exact .inr (List.mem_cons_of_mem _ h)
      · rcases List.mem_cons.1 h with h | h
        · exact .inr (h ▸ List.mem_cons_self)
        · rcases ih h with h | h
          · exact .inl h
          · exact .inr (List.mem_cons_of_mem _ h)

/-- A write keeps the canonical form. -/
theorem wf_write {m : Memory} (hm : m.wf) (o : Nat) (b : Byte) : (m.write o b).wf := by
  induction m with
  | nil =>
    simp only [write]
    split
    · exact hm
    · next h => exact wf_cons hm (by simp) h
  | cons c m ih =>
    obtain ⟨k, v⟩ := c
    obtain ⟨hw, hlt, hv⟩ := wf_tail hm
    simp only [write]
    split
    · next h =>
      split
      · exact hm
      · next hb =>
        refine wf_cons hm (fun c hc => ?_) hb
        rcases List.mem_cons.1 hc with rfl | hc
        · exact h
        · exact Nat.lt_trans h (hlt c hc)
    · split
      · next h =>
        split
        · exact hw
        · next hb => exact wf_cons hw (fun c hc => h ▸ hlt c hc) hb
      · refine wf_cons (ih hw) (fun c hc => ?_) hv
        rcases mem_write hc with rfl | hc
        · show k < o; omega
        · exact hlt c hc

/-- A write inside the size keeps the memory inside it. -/
theorem within_write {m : Memory} {n : Nat} (hm : m.within n) (o : Nat) (ho : o < n) (b : Byte) :
    (m.write o b).within n := fun c hc => by
  rcases mem_write hc with rfl | hc
  · exact ho
  · exact hm c hc

/-- Equal memories are equal data. -/
theorem ext {m m' : Memory} (hm : m.wf) (hm' : m'.wf) (h : ∀ o, m.read o = m'.read o) : m = m' := by
  induction m generalizing m' with
  | nil =>
    cases m' with
    | nil => rfl
    | cons c m' =>
      have := h c.1
      simp [read] at this
      exact absurd this.symm (wf_tail hm').2.2
  | cons c m ih =>
    obtain ⟨k, v⟩ := c
    obtain ⟨hw, hlt, hv⟩ := wf_tail hm
    cases m' with
    | nil =>
      have := h k
      simp [read] at this
      exact absurd this hv
    | cons c' m' =>
      obtain ⟨k', v'⟩ := c'
      obtain ⟨hw', hlt', hv'⟩ := wf_tail hm'
      have hkk : k = k' := by
        rcases Nat.lt_trichotomy k k' with hl | he | hg
        · have := h k
          rw [read, if_pos rfl, read_eq_unlisted ((k', v') :: m') k] at this
          · exact absurd this hv
          · intro c hc
            rcases List.mem_cons.1 hc with rfl | hc
            · exact hl
            · exact Nat.lt_trans hl (hlt' c hc)
        · exact he
        · have := h k'
          rw [read_eq_unlisted ((k, v) :: m) k', read, if_pos rfl] at this
          · exact absurd this.symm hv'
          · intro c hc
            rcases List.mem_cons.1 hc with rfl | hc
            · exact hg
            · exact Nat.lt_trans hg (hlt c hc)
      subst hkk
      have hvv : v = v' := by have := h k; simpa [read] using this
      subst hvv
      have : m = m' := by
        refine ih hw hw' fun o => ?_
        by_cases ho : o = k
        · subst ho
          rw [read_eq_unlisted m o hlt, read_eq_unlisted m' o hlt']
        · have := h o
          simpa [read, ho] using this
      rw [this]

/-! ## Values of 1, 2 or 4 bytes (R75) -/

/-- A store touches no byte outside the bytes it stores. -/
theorem read_writeLE_outside (m : Memory) (o : Nat) (n : Width) (v : Word) (p : Nat) (h : p < o ∨ o + n.bytes ≤ p) :
    (m.writeLE o n v).read p = m.read p := by
  cases n <;> simp only [writeLE, Width.bytes] at * <;> repeat rw [read_write_other _ _ _ _ (by omega)]

theorem wf_writeLE {m : Memory} (hm : m.wf) (o : Nat) (n : Width) (v : Word) : (m.writeLE o n v).wf := by
  cases n <;> simp only [writeLE]
  · exact wf_write hm _ _
  · exact wf_write (wf_write hm _ _) _ _
  · exact wf_write (wf_write (wf_write (wf_write hm _ _) _ _) _ _) _ _

theorem within_writeLE {m : Memory} {size : Nat} (hm : m.within size) (o : Nat) (n : Width) (v : Word)
    (ho : o + n.bytes ≤ size) : (m.writeLE o n v).within size := by
  cases n <;> simp only [writeLE, Width.bytes] at *
  · exact within_write hm _ (by omega) _
  · exact within_write (within_write hm _ (by omega) _) _ (by omega) _
  · exact within_write (within_write (within_write (within_write hm _ (by omega) _) _ (by omega) _) _ (by omega) _) _
      (by omega) _

/-- Byte k of a stored value stands at offset o + k. -/
theorem read_writeLE (m : Memory) (hm : m.wf) (o : Nat) (n : Width) (v : Word) (k : Nat) (hk : k < n.bytes) :
    (m.writeLE o n v).read (o + k) = byteOf v k := by
  cases n <;> simp only [writeLE, Width.bytes] at *
  · rw [read_write m hm]
    have : k = 0 := by omega
    simp [this]
  · rw [read_write _ (wf_write hm _ _), read_write m hm]
    have : k = 0 ∨ k = 1 := by omega
    rcases this with rfl | rfl <;> simp
  · rw [read_write _ (wf_write (wf_write (wf_write hm _ _) _ _) _ _), read_write _ (wf_write (wf_write hm _ _) _ _),
      read_write _ (wf_write hm _ _), read_write m hm]
    have : k = 0 ∨ k = 1 ∨ k = 2 ∨ k = 3 := by omega
    rcases this with rfl | rfl | rfl | rfl <;> simp

/-- A word read back where it was stored. -/
theorem readLE_writeLE_word (m : Memory) (hm : m.wf) (o : Nat) (v : Word) : (m.writeLE o .word v).readLE o .word = v := by
  have h := fun k hk => read_writeLE m hm o .word v k hk
  have h0 : (m.writeLE o .word v).read o = byteOf v 0 := h 0 (by decide)
  simp only [readLE, h0, h 1 (by decide), h 2 (by decide), h 3 (by decide), wordOfBytes, byteOf]
  ext i hi
  simp only [BitVec.getElem_append, BitVec.getElem_extractLsb']
  split <;> (try split) <;> (try split) <;> (rw [BitVec.getLsbD_eq_getElem (by omega)]; congr 1; omega)

/-- Reading looks only at the bytes it reads. -/
theorem readLE_congr {m m' : Memory} {o : Nat} {n : Width} (h : ∀ k, k < n.bytes → m'.read (o + k) = m.read (o + k)) :
    m'.readLE o n = m.readLE o n := by
  have h0 : m'.read o = m.read o := h 0 (by cases n <;> decide)
  cases n <;> simp only [readLE, Width.bytes] at *
  · rw [h0]
  · rw [h0, h 1 (by decide)]
  · rw [h0, h 1 (by decide), h 2 (by decide), h 3 (by decide)]

end Sys2Proof.Machine.Memory
end

