-- ==== Sys2Proof/Laws/State.lean ====
section
/-!
SUPPORT. The state's accessors and updates: what each register read gives after each register write, and one lemma
for each field of `State` under each update, so that no proof unfolds a record.
-/

namespace Sys2Proof.Machine

/-! ## General registers (R21) -/

@[simp] theorem State.reg_zero (s : State) : s.reg 0 = 0 := rfl

theorem State.reg_eq (s : State) (i : Reg) (h : i ≠ 0) : s.reg i = s.regs[i.toNat] := if_neg h

@[simp] theorem State.setReg_zero (s : State) (v : Word) : s.setReg 0 v = s := rfl

theorem State.setReg_eq (s : State) (i : Reg) (v : Word) (h : i ≠ 0) :
    s.setReg i v = { s with regs := s.regs.set i.toNat v } := if_neg h

theorem State.reg_setReg_self (s : State) (i : Reg) (v : Word) : (s.setReg i v).reg i = written i v := by
  unfold State.setReg State.reg written
  split <;> simp

theorem State.reg_setReg_other (s : State) (i r : Reg) (v : Word) (h : r ≠ i) : (s.setReg i v).reg r = s.reg r := by
  unfold State.setReg State.reg
  split
  · rfl
  · split
    · rfl
    · rw [Vector.getElem_set_ne]
      exact fun e => h (BitVec.eq_of_toNat_eq e.symm)

/-- Every read after a write: the written value at the destination, unless that is register 0. -/
@[simp] theorem State.reg_setReg (s : State) (i r : Reg) (v : Word) :
    (s.setReg i v).reg r = if r = i then written i v else s.reg r := by
  split
  · next h => rw [h, reg_setReg_self]
  · next h => exact reg_setReg_other s i r v h

/-- Reading a register looks at `regs` only. -/
theorem State.reg_congr {s t : State} (h : t.regs = s.regs) (r : Reg) : t.reg r = s.reg r := by
  unfold State.reg; rw [h]

/-- The storage of `x[0]` is never written. -/
@[simp] theorem State.setReg_regs_zero (s : State) (i : Reg) (v : Word) : (s.setReg i v).regs[0] = s.regs[0] := by
  unfold State.setReg
  split
  · rfl
  · next h =>
    have : i.toNat ≠ 0 := fun e => h (BitVec.eq_of_toNat_eq e)
    simp [this]

/-- A register write changes `regs` and nothing else. -/
theorem State.setReg_only (s : State) (i : Reg) (v : Word) : { s.setReg i v with regs := s.regs } = s := by
  unfold State.setReg; split <;> rfl

/-! ## Every other field under every update -/

@[simp] theorem State.setReg_cfg (s : State) (i : Reg) (v : Word) : (s.setReg i v).cfg = s.cfg := by unfold State.setReg; split <;> rfl
@[simp] theorem State.setReg_hi (s : State) (i : Reg) (v : Word) : (s.setReg i v).hi = s.hi := by unfold State.setReg; split <;> rfl
@[simp] theorem State.setReg_lo (s : State) (i : Reg) (v : Word) : (s.setReg i v).lo = s.lo := by unfold State.setReg; split <;> rfl
@[simp] theorem State.setReg_currentPc (s : State) (i : Reg) (v : Word) : (s.setReg i v).currentPc = s.currentPc := by unfold State.setReg; split <;> rfl
@[simp] theorem State.setReg_nextPc (s : State) (i : Reg) (v : Word) : (s.setReg i v).nextPc = s.nextPc := by unfold State.setReg; split <;> rfl
@[simp] theorem State.setReg_cia (s : State) (i : Reg) (v : Word) : (s.setReg i v).cia = s.cia := by unfold State.setReg; split <;> rfl
@[simp] theorem State.setReg_executedBranch (s : State) (i : Reg) (v : Word) : (s.setReg i v).executedBranch = s.executedBranch := by unfold State.setReg; split <;> rfl
@[simp] theorem State.setReg_inDelaySlot (s : State) (i : Reg) (v : Word) : (s.setReg i v).inDelaySlot = s.inDelaySlot := by unfold State.setReg; split <;> rfl
@[simp] theorem State.setReg_halted (s : State) (i : Reg) (v : Word) : (s.setReg i v).halted = s.halted := by unfold State.setReg; split <;> rfl
@[simp] theorem State.setReg_sr (s : State) (i : Reg) (v : Word) : (s.setReg i v).sr = s.sr := by unfold State.setReg; split <;> rfl
@[simp] theorem State.setReg_cause (s : State) (i : Reg) (v : Word) : (s.setReg i v).cause = s.cause := by unfold State.setReg; split <;> rfl
@[simp] theorem State.setReg_epc (s : State) (i : Reg) (v : Word) : (s.setReg i v).epc = s.epc := by unfold State.setReg; split <;> rfl
@[simp] theorem State.setReg_ram (s : State) (i : Reg) (v : Word) : (s.setReg i v).ram = s.ram := by unfold State.setReg; split <;> rfl
@[simp] theorem State.setReg_scratch (s : State) (i : Reg) (v : Word) : (s.setReg i v).scratch = s.scratch := by unfold State.setReg; split <;> rfl
@[simp] theorem State.setReg_bios (s : State) (i : Reg) (v : Word) : (s.setReg i v).bios = s.bios := by unfold State.setReg; split <;> rfl
@[simp] theorem State.setReg_dma (s : State) (i : Reg) (v : Word) : (s.setReg i v).dma = s.dma := by unfold State.setReg; split <;> rfl
@[simp] theorem State.setReg_gpu (s : State) (i : Reg) (v : Word) : (s.setReg i v).gpu = s.gpu := by unfold State.setReg; split <;> rfl
@[simp] theorem State.setReg_devLog (s : State) (i : Reg) (v : Word) : (s.setReg i v).devLog = s.devLog := by unfold State.setReg; split <;> rfl

@[simp] theorem State.setHiLo_cfg (s : State) (h l : Word) : (s.setHiLo h l).cfg = s.cfg := rfl
@[simp] theorem State.setHiLo_regs (s : State) (h l : Word) : (s.setHiLo h l).regs = s.regs := rfl
@[simp] theorem State.setHiLo_hi (s : State) (h l : Word) : (s.setHiLo h l).hi = h := rfl
@[simp] theorem State.setHiLo_lo (s : State) (h l : Word) : (s.setHiLo h l).lo = l := rfl
@[simp] theorem State.setHiLo_currentPc (s : State) (h l : Word) : (s.setHiLo h l).currentPc = s.currentPc := rfl
@[simp] theorem State.setHiLo_nextPc (s : State) (h l : Word) : (s.setHiLo h l).nextPc = s.nextPc := rfl
@[simp] theorem State.setHiLo_cia (s : State) (h l : Word) : (s.setHiLo h l).cia = s.cia := rfl
@[simp] theorem State.setHiLo_executedBranch (s : State) (h l : Word) : (s.setHiLo h l).executedBranch = s.executedBranch := rfl
@[simp] theorem State.setHiLo_inDelaySlot (s : State) (h l : Word) : (s.setHiLo h l).inDelaySlot = s.inDelaySlot := rfl
@[simp] theorem State.setHiLo_halted (s : State) (h l : Word) : (s.setHiLo h l).halted = s.halted := rfl
@[simp] theorem State.setHiLo_sr (s : State) (h l : Word) : (s.setHiLo h l).sr = s.sr := rfl
@[simp] theorem State.setHiLo_cause (s : State) (h l : Word) : (s.setHiLo h l).cause = s.cause := rfl
@[simp] theorem State.setHiLo_epc (s : State) (h l : Word) : (s.setHiLo h l).epc = s.epc := rfl
@[simp] theorem State.setHiLo_ram (s : State) (h l : Word) : (s.setHiLo h l).ram = s.ram := rfl
@[simp] theorem State.setHiLo_scratch (s : State) (h l : Word) : (s.setHiLo h l).scratch = s.scratch := rfl
@[simp] theorem State.setHiLo_bios (s : State) (h l : Word) : (s.setHiLo h l).bios = s.bios := rfl
@[simp] theorem State.setHiLo_dma (s : State) (h l : Word) : (s.setHiLo h l).dma = s.dma := rfl
@[simp] theorem State.setHiLo_gpu (s : State) (h l : Word) : (s.setHiLo h l).gpu = s.gpu := rfl
@[simp] theorem State.setHiLo_devLog (s : State) (h l : Word) : (s.setHiLo h l).devLog = s.devLog := rfl

@[simp] theorem State.setRamWord_cfg (s : State) (o v : Word) : (s.setRamWord o v).cfg = s.cfg := rfl
@[simp] theorem State.setRamWord_regs (s : State) (o v : Word) : (s.setRamWord o v).regs = s.regs := rfl
@[simp] theorem State.setRamWord_hi (s : State) (o v : Word) : (s.setRamWord o v).hi = s.hi := rfl
@[simp] theorem State.setRamWord_lo (s : State) (o v : Word) : (s.setRamWord o v).lo = s.lo := rfl
@[simp] theorem State.setRamWord_currentPc (s : State) (o v : Word) : (s.setRamWord o v).currentPc = s.currentPc := rfl
@[simp] theorem State.setRamWord_nextPc (s : State) (o v : Word) : (s.setRamWord o v).nextPc = s.nextPc := rfl
@[simp] theorem State.setRamWord_cia (s : State) (o v : Word) : (s.setRamWord o v).cia = s.cia := rfl
@[simp] theorem State.setRamWord_executedBranch (s : State) (o v : Word) : (s.setRamWord o v).executedBranch = s.executedBranch := rfl
@[simp] theorem State.setRamWord_inDelaySlot (s : State) (o v : Word) : (s.setRamWord o v).inDelaySlot = s.inDelaySlot := rfl
@[simp] theorem State.setRamWord_halted (s : State) (o v : Word) : (s.setRamWord o v).halted = s.halted := rfl
@[simp] theorem State.setRamWord_sr (s : State) (o v : Word) : (s.setRamWord o v).sr = s.sr := rfl
@[simp] theorem State.setRamWord_cause (s : State) (o v : Word) : (s.setRamWord o v).cause = s.cause := rfl
@[simp] theorem State.setRamWord_epc (s : State) (o v : Word) : (s.setRamWord o v).epc = s.epc := rfl
@[simp] theorem State.setRamWord_ram (s : State) (o v : Word) : (s.setRamWord o v).ram = s.ram.writeLE o.toNat .word v := rfl
@[simp] theorem State.setRamWord_scratch (s : State) (o v : Word) : (s.setRamWord o v).scratch = s.scratch := rfl
@[simp] theorem State.setRamWord_bios (s : State) (o v : Word) : (s.setRamWord o v).bios = s.bios := rfl
@[simp] theorem State.setRamWord_dma (s : State) (o v : Word) : (s.setRamWord o v).dma = s.dma := rfl
@[simp] theorem State.setRamWord_gpu (s : State) (o v : Word) : (s.setRamWord o v).gpu = s.gpu := rfl
@[simp] theorem State.setRamWord_devLog (s : State) (o v : Word) : (s.setRamWord o v).devLog = s.devLog := rfl

@[simp] theorem State.setMadr_cfg (s : State) (n : ChannelId) (v : BitVec 24) : (s.setMadr n v).cfg = s.cfg := rfl
@[simp] theorem State.setMadr_regs (s : State) (n : ChannelId) (v : BitVec 24) : (s.setMadr n v).regs = s.regs := rfl
@[simp] theorem State.setMadr_hi (s : State) (n : ChannelId) (v : BitVec 24) : (s.setMadr n v).hi = s.hi := rfl
@[simp] theorem State.setMadr_lo (s : State) (n : ChannelId) (v : BitVec 24) : (s.setMadr n v).lo = s.lo := rfl
@[simp] theorem State.setMadr_currentPc (s : State) (n : ChannelId) (v : BitVec 24) : (s.setMadr n v).currentPc = s.currentPc := rfl
@[simp] theorem State.setMadr_nextPc (s : State) (n : ChannelId) (v : BitVec 24) : (s.setMadr n v).nextPc = s.nextPc := rfl
@[simp] theorem State.setMadr_cia (s : State) (n : ChannelId) (v : BitVec 24) : (s.setMadr n v).cia = s.cia := rfl
@[simp] theorem State.setMadr_executedBranch (s : State) (n : ChannelId) (v : BitVec 24) : (s.setMadr n v).executedBranch = s.executedBranch := rfl
@[simp] theorem State.setMadr_inDelaySlot (s : State) (n : ChannelId) (v : BitVec 24) : (s.setMadr n v).inDelaySlot = s.inDelaySlot := rfl
@[simp] theorem State.setMadr_halted (s : State) (n : ChannelId) (v : BitVec 24) : (s.setMadr n v).halted = s.halted := rfl
@[simp] theorem State.setMadr_sr (s : State) (n : ChannelId) (v : BitVec 24) : (s.setMadr n v).sr = s.sr := rfl
@[simp] theorem State.setMadr_cause (s : State) (n : ChannelId) (v : BitVec 24) : (s.setMadr n v).cause = s.cause := rfl
@[simp] theorem State.setMadr_epc (s : State) (n : ChannelId) (v : BitVec 24) : (s.setMadr n v).epc = s.epc := rfl
@[simp] theorem State.setMadr_ram (s : State) (n : ChannelId) (v : BitVec 24) : (s.setMadr n v).ram = s.ram := rfl
@[simp] theorem State.setMadr_scratch (s : State) (n : ChannelId) (v : BitVec 24) : (s.setMadr n v).scratch = s.scratch := rfl
@[simp] theorem State.setMadr_bios (s : State) (n : ChannelId) (v : BitVec 24) : (s.setMadr n v).bios = s.bios := rfl
@[simp] theorem State.setMadr_dma (s : State) (n : ChannelId) (v : BitVec 24) : (s.setMadr n v).dma = s.dma.setChannel n { s.channel n with madr := v } := rfl
@[simp] theorem State.setMadr_gpu (s : State) (n : ChannelId) (v : BitVec 24) : (s.setMadr n v).gpu = s.gpu := rfl
@[simp] theorem State.setMadr_devLog (s : State) (n : ChannelId) (v : BitVec 24) : (s.setMadr n v).devLog = s.devLog := rfl

@[simp] theorem State.setBcr_cfg (s : State) (n : ChannelId) (v : Word) : (s.setBcr n v).cfg = s.cfg := rfl
@[simp] theorem State.setBcr_regs (s : State) (n : ChannelId) (v : Word) : (s.setBcr n v).regs = s.regs := rfl
@[simp] theorem State.setBcr_hi (s : State) (n : ChannelId) (v : Word) : (s.setBcr n v).hi = s.hi := rfl
@[simp] theorem State.setBcr_lo (s : State) (n : ChannelId) (v : Word) : (s.setBcr n v).lo = s.lo := rfl
@[simp] theorem State.setBcr_currentPc (s : State) (n : ChannelId) (v : Word) : (s.setBcr n v).currentPc = s.currentPc := rfl
@[simp] theorem State.setBcr_nextPc (s : State) (n : ChannelId) (v : Word) : (s.setBcr n v).nextPc = s.nextPc := rfl
@[simp] theorem State.setBcr_cia (s : State) (n : ChannelId) (v : Word) : (s.setBcr n v).cia = s.cia := rfl
@[simp] theorem State.setBcr_executedBranch (s : State) (n : ChannelId) (v : Word) : (s.setBcr n v).executedBranch = s.executedBranch := rfl
@[simp] theorem State.setBcr_inDelaySlot (s : State) (n : ChannelId) (v : Word) : (s.setBcr n v).inDelaySlot = s.inDelaySlot := rfl
@[simp] theorem State.setBcr_halted (s : State) (n : ChannelId) (v : Word) : (s.setBcr n v).halted = s.halted := rfl
@[simp] theorem State.setBcr_sr (s : State) (n : ChannelId) (v : Word) : (s.setBcr n v).sr = s.sr := rfl
@[simp] theorem State.setBcr_cause (s : State) (n : ChannelId) (v : Word) : (s.setBcr n v).cause = s.cause := rfl
@[simp] theorem State.setBcr_epc (s : State) (n : ChannelId) (v : Word) : (s.setBcr n v).epc = s.epc := rfl
@[simp] theorem State.setBcr_ram (s : State) (n : ChannelId) (v : Word) : (s.setBcr n v).ram = s.ram := rfl
@[simp] theorem State.setBcr_scratch (s : State) (n : ChannelId) (v : Word) : (s.setBcr n v).scratch = s.scratch := rfl
@[simp] theorem State.setBcr_bios (s : State) (n : ChannelId) (v : Word) : (s.setBcr n v).bios = s.bios := rfl
@[simp] theorem State.setBcr_dma (s : State) (n : ChannelId) (v : Word) : (s.setBcr n v).dma = s.dma.setChannel n { s.channel n with bcr := v } := rfl
@[simp] theorem State.setBcr_gpu (s : State) (n : ChannelId) (v : Word) : (s.setBcr n v).gpu = s.gpu := rfl
@[simp] theorem State.setBcr_devLog (s : State) (n : ChannelId) (v : Word) : (s.setBcr n v).devLog = s.devLog := rfl

@[simp] theorem State.setChcr_cfg (s : State) (n : ChannelId) (v : Word) : (s.setChcr n v).cfg = s.cfg := rfl
@[simp] theorem State.setChcr_regs (s : State) (n : ChannelId) (v : Word) : (s.setChcr n v).regs = s.regs := rfl
@[simp] theorem State.setChcr_hi (s : State) (n : ChannelId) (v : Word) : (s.setChcr n v).hi = s.hi := rfl
@[simp] theorem State.setChcr_lo (s : State) (n : ChannelId) (v : Word) : (s.setChcr n v).lo = s.lo := rfl
@[simp] theorem State.setChcr_currentPc (s : State) (n : ChannelId) (v : Word) : (s.setChcr n v).currentPc = s.currentPc := rfl
@[simp] theorem State.setChcr_nextPc (s : State) (n : ChannelId) (v : Word) : (s.setChcr n v).nextPc = s.nextPc := rfl
@[simp] theorem State.setChcr_cia (s : State) (n : ChannelId) (v : Word) : (s.setChcr n v).cia = s.cia := rfl
@[simp] theorem State.setChcr_executedBranch (s : State) (n : ChannelId) (v : Word) : (s.setChcr n v).executedBranch = s.executedBranch := rfl
@[simp] theorem State.setChcr_inDelaySlot (s : State) (n : ChannelId) (v : Word) : (s.setChcr n v).inDelaySlot = s.inDelaySlot := rfl
@[simp] theorem State.setChcr_halted (s : State) (n : ChannelId) (v : Word) : (s.setChcr n v).halted = s.halted := rfl
@[simp] theorem State.setChcr_sr (s : State) (n : ChannelId) (v : Word) : (s.setChcr n v).sr = s.sr := rfl
@[simp] theorem State.setChcr_cause (s : State) (n : ChannelId) (v : Word) : (s.setChcr n v).cause = s.cause := rfl
@[simp] theorem State.setChcr_epc (s : State) (n : ChannelId) (v : Word) : (s.setChcr n v).epc = s.epc := rfl
@[simp] theorem State.setChcr_ram (s : State) (n : ChannelId) (v : Word) : (s.setChcr n v).ram = s.ram := rfl
@[simp] theorem State.setChcr_scratch (s : State) (n : ChannelId) (v : Word) : (s.setChcr n v).scratch = s.scratch := rfl
@[simp] theorem State.setChcr_bios (s : State) (n : ChannelId) (v : Word) : (s.setChcr n v).bios = s.bios := rfl
@[simp] theorem State.setChcr_dma (s : State) (n : ChannelId) (v : Word) : (s.setChcr n v).dma = s.dma.setChannel n { s.channel n with chcr := v } := rfl
@[simp] theorem State.setChcr_gpu (s : State) (n : ChannelId) (v : Word) : (s.setChcr n v).gpu = s.gpu := rfl
@[simp] theorem State.setChcr_devLog (s : State) (n : ChannelId) (v : Word) : (s.setChcr n v).devLog = s.devLog := rfl

@[simp] theorem State.logDropped_cfg (s : State) (a : Word) (n : Width) (v : Word) : (s.logDropped a n v).cfg = s.cfg := rfl
@[simp] theorem State.logDropped_regs (s : State) (a : Word) (n : Width) (v : Word) : (s.logDropped a n v).regs = s.regs := rfl
@[simp] theorem State.logDropped_hi (s : State) (a : Word) (n : Width) (v : Word) : (s.logDropped a n v).hi = s.hi := rfl
@[simp] theorem State.logDropped_lo (s : State) (a : Word) (n : Width) (v : Word) : (s.logDropped a n v).lo = s.lo := rfl
@[simp] theorem State.logDropped_currentPc (s : State) (a : Word) (n : Width) (v : Word) : (s.logDropped a n v).currentPc = s.currentPc := rfl
@[simp] theorem State.logDropped_nextPc (s : State) (a : Word) (n : Width) (v : Word) : (s.logDropped a n v).nextPc = s.nextPc := rfl
@[simp] theorem State.logDropped_cia (s : State) (a : Word) (n : Width) (v : Word) : (s.logDropped a n v).cia = s.cia := rfl
@[simp] theorem State.logDropped_executedBranch (s : State) (a : Word) (n : Width) (v : Word) : (s.logDropped a n v).executedBranch = s.executedBranch := rfl
@[simp] theorem State.logDropped_inDelaySlot (s : State) (a : Word) (n : Width) (v : Word) : (s.logDropped a n v).inDelaySlot = s.inDelaySlot := rfl
@[simp] theorem State.logDropped_halted (s : State) (a : Word) (n : Width) (v : Word) : (s.logDropped a n v).halted = s.halted := rfl
@[simp] theorem State.logDropped_sr (s : State) (a : Word) (n : Width) (v : Word) : (s.logDropped a n v).sr = s.sr := rfl
@[simp] theorem State.logDropped_cause (s : State) (a : Word) (n : Width) (v : Word) : (s.logDropped a n v).cause = s.cause := rfl
@[simp] theorem State.logDropped_epc (s : State) (a : Word) (n : Width) (v : Word) : (s.logDropped a n v).epc = s.epc := rfl
@[simp] theorem State.logDropped_ram (s : State) (a : Word) (n : Width) (v : Word) : (s.logDropped a n v).ram = s.ram := rfl
@[simp] theorem State.logDropped_scratch (s : State) (a : Word) (n : Width) (v : Word) : (s.logDropped a n v).scratch = s.scratch := rfl
@[simp] theorem State.logDropped_bios (s : State) (a : Word) (n : Width) (v : Word) : (s.logDropped a n v).bios = s.bios := rfl
@[simp] theorem State.logDropped_dma (s : State) (a : Word) (n : Width) (v : Word) : (s.logDropped a n v).dma = s.dma := rfl
@[simp] theorem State.logDropped_gpu (s : State) (a : Word) (n : Width) (v : Word) : (s.logDropped a n v).gpu = s.gpu := rfl
@[simp] theorem State.logDropped_devLog (s : State) (a : Word) (n : Width) (v : Word) : (s.logDropped a n v).devLog = s.devLog ++ [.droppedWrite a n v] := rfl

@[simp] theorem State.jumpTo_cfg (s : State) (a : Word) : (s.jumpTo a).cfg = s.cfg := rfl
@[simp] theorem State.jumpTo_regs (s : State) (a : Word) : (s.jumpTo a).regs = s.regs := rfl
@[simp] theorem State.jumpTo_hi (s : State) (a : Word) : (s.jumpTo a).hi = s.hi := rfl
@[simp] theorem State.jumpTo_lo (s : State) (a : Word) : (s.jumpTo a).lo = s.lo := rfl
@[simp] theorem State.jumpTo_currentPc (s : State) (a : Word) : (s.jumpTo a).currentPc = s.currentPc := rfl
@[simp] theorem State.jumpTo_nextPc (s : State) (a : Word) : (s.jumpTo a).nextPc = a := rfl
@[simp] theorem State.jumpTo_cia (s : State) (a : Word) : (s.jumpTo a).cia = s.cia := rfl
@[simp] theorem State.jumpTo_executedBranch (s : State) (a : Word) : (s.jumpTo a).executedBranch = s.executedBranch := rfl
@[simp] theorem State.jumpTo_inDelaySlot (s : State) (a : Word) : (s.jumpTo a).inDelaySlot = s.inDelaySlot := rfl
@[simp] theorem State.jumpTo_halted (s : State) (a : Word) : (s.jumpTo a).halted = s.halted := rfl
@[simp] theorem State.jumpTo_sr (s : State) (a : Word) : (s.jumpTo a).sr = s.sr := rfl
@[simp] theorem State.jumpTo_cause (s : State) (a : Word) : (s.jumpTo a).cause = s.cause := rfl
@[simp] theorem State.jumpTo_epc (s : State) (a : Word) : (s.jumpTo a).epc = s.epc := rfl
@[simp] theorem State.jumpTo_ram (s : State) (a : Word) : (s.jumpTo a).ram = s.ram := rfl
@[simp] theorem State.jumpTo_scratch (s : State) (a : Word) : (s.jumpTo a).scratch = s.scratch := rfl
@[simp] theorem State.jumpTo_bios (s : State) (a : Word) : (s.jumpTo a).bios = s.bios := rfl
@[simp] theorem State.jumpTo_dma (s : State) (a : Word) : (s.jumpTo a).dma = s.dma := rfl
@[simp] theorem State.jumpTo_gpu (s : State) (a : Word) : (s.jumpTo a).gpu = s.gpu := rfl
@[simp] theorem State.jumpTo_devLog (s : State) (a : Word) : (s.jumpTo a).devLog = s.devLog := rfl

@[simp] theorem State.branchIf_cfg (s : State) (b : Bool) (o : Half) : (s.branchIf b o).cfg = s.cfg := by cases b <;> rfl
@[simp] theorem State.branchIf_regs (s : State) (b : Bool) (o : Half) : (s.branchIf b o).regs = s.regs := by cases b <;> rfl
@[simp] theorem State.branchIf_hi (s : State) (b : Bool) (o : Half) : (s.branchIf b o).hi = s.hi := by cases b <;> rfl
@[simp] theorem State.branchIf_lo (s : State) (b : Bool) (o : Half) : (s.branchIf b o).lo = s.lo := by cases b <;> rfl
@[simp] theorem State.branchIf_currentPc (s : State) (b : Bool) (o : Half) : (s.branchIf b o).currentPc = s.currentPc := by cases b <;> rfl
@[simp] theorem State.branchIf_nextPc (s : State) (b : Bool) (o : Half) : (s.branchIf b o).nextPc = if b then s.branchTarget o else s.nextPc := by cases b <;> rfl
@[simp] theorem State.branchIf_cia (s : State) (b : Bool) (o : Half) : (s.branchIf b o).cia = s.cia := by cases b <;> rfl
@[simp] theorem State.branchIf_executedBranch (s : State) (b : Bool) (o : Half) : (s.branchIf b o).executedBranch = s.executedBranch := by cases b <;> rfl
@[simp] theorem State.branchIf_inDelaySlot (s : State) (b : Bool) (o : Half) : (s.branchIf b o).inDelaySlot = s.inDelaySlot := by cases b <;> rfl
@[simp] theorem State.branchIf_halted (s : State) (b : Bool) (o : Half) : (s.branchIf b o).halted = s.halted := by cases b <;> rfl
@[simp] theorem State.branchIf_sr (s : State) (b : Bool) (o : Half) : (s.branchIf b o).sr = s.sr := by cases b <;> rfl
@[simp] theorem State.branchIf_cause (s : State) (b : Bool) (o : Half) : (s.branchIf b o).cause = s.cause := by cases b <;> rfl
@[simp] theorem State.branchIf_epc (s : State) (b : Bool) (o : Half) : (s.branchIf b o).epc = s.epc := by cases b <;> rfl
@[simp] theorem State.branchIf_ram (s : State) (b : Bool) (o : Half) : (s.branchIf b o).ram = s.ram := by cases b <;> rfl
@[simp] theorem State.branchIf_scratch (s : State) (b : Bool) (o : Half) : (s.branchIf b o).scratch = s.scratch := by cases b <;> rfl
@[simp] theorem State.branchIf_bios (s : State) (b : Bool) (o : Half) : (s.branchIf b o).bios = s.bios := by cases b <;> rfl
@[simp] theorem State.branchIf_dma (s : State) (b : Bool) (o : Half) : (s.branchIf b o).dma = s.dma := by cases b <;> rfl
@[simp] theorem State.branchIf_gpu (s : State) (b : Bool) (o : Half) : (s.branchIf b o).gpu = s.gpu := by cases b <;> rfl
@[simp] theorem State.branchIf_devLog (s : State) (b : Bool) (o : Half) : (s.branchIf b o).devLog = s.devLog := by cases b <;> rfl

@[simp] theorem State.link_cfg (s : State) (i : Reg) : (s.link i).cfg = s.cfg := by simp [State.link]
@[simp] theorem State.link_hi (s : State) (i : Reg) : (s.link i).hi = s.hi := by simp [State.link]
@[simp] theorem State.link_lo (s : State) (i : Reg) : (s.link i).lo = s.lo := by simp [State.link]
@[simp] theorem State.link_currentPc (s : State) (i : Reg) : (s.link i).currentPc = s.currentPc := by simp [State.link]
@[simp] theorem State.link_nextPc (s : State) (i : Reg) : (s.link i).nextPc = s.nextPc := by simp [State.link]
@[simp] theorem State.link_cia (s : State) (i : Reg) : (s.link i).cia = s.cia := by simp [State.link]
@[simp] theorem State.link_executedBranch (s : State) (i : Reg) : (s.link i).executedBranch = s.executedBranch := by simp [State.link]
@[simp] theorem State.link_inDelaySlot (s : State) (i : Reg) : (s.link i).inDelaySlot = s.inDelaySlot := by simp [State.link]
@[simp] theorem State.link_halted (s : State) (i : Reg) : (s.link i).halted = s.halted := by simp [State.link]
@[simp] theorem State.link_sr (s : State) (i : Reg) : (s.link i).sr = s.sr := by simp [State.link]
@[simp] theorem State.link_cause (s : State) (i : Reg) : (s.link i).cause = s.cause := by simp [State.link]
@[simp] theorem State.link_epc (s : State) (i : Reg) : (s.link i).epc = s.epc := by simp [State.link]
@[simp] theorem State.link_ram (s : State) (i : Reg) : (s.link i).ram = s.ram := by simp [State.link]
@[simp] theorem State.link_scratch (s : State) (i : Reg) : (s.link i).scratch = s.scratch := by simp [State.link]
@[simp] theorem State.link_bios (s : State) (i : Reg) : (s.link i).bios = s.bios := by simp [State.link]
@[simp] theorem State.link_dma (s : State) (i : Reg) : (s.link i).dma = s.dma := by simp [State.link]
@[simp] theorem State.link_gpu (s : State) (i : Reg) : (s.link i).gpu = s.gpu := by simp [State.link]
@[simp] theorem State.link_devLog (s : State) (i : Reg) : (s.link i).devLog = s.devLog := by simp [State.link]

@[simp] theorem State.enterException_cfg (s : State) (c : BitVec 5) : (s.enterException c).cfg = s.cfg := rfl
@[simp] theorem State.enterException_regs (s : State) (c : BitVec 5) : (s.enterException c).regs = s.regs := rfl
@[simp] theorem State.enterException_hi (s : State) (c : BitVec 5) : (s.enterException c).hi = s.hi := rfl
@[simp] theorem State.enterException_lo (s : State) (c : BitVec 5) : (s.enterException c).lo = s.lo := rfl
@[simp] theorem State.enterException_currentPc (s : State) (c : BitVec 5) : (s.enterException c).currentPc = s.vector := rfl
@[simp] theorem State.enterException_nextPc (s : State) (c : BitVec 5) : (s.enterException c).nextPc = s.vector + 4 := rfl
@[simp] theorem State.enterException_cia (s : State) (c : BitVec 5) : (s.enterException c).cia = s.cia := rfl
@[simp] theorem State.enterException_executedBranch (s : State) (c : BitVec 5) : (s.enterException c).executedBranch = s.executedBranch := rfl
@[simp] theorem State.enterException_inDelaySlot (s : State) (c : BitVec 5) : (s.enterException c).inDelaySlot = s.inDelaySlot := rfl
@[simp] theorem State.enterException_halted (s : State) (c : BitVec 5) : (s.enterException c).halted = s.halted := rfl
@[simp] theorem State.enterException_sr (s : State) (c : BitVec 5) : (s.enterException c).sr = pushModeStack s.sr := rfl
@[simp] theorem State.enterException_cause (s : State) (c : BitVec 5) : (s.enterException c).cause = c.setWidth 32 <<< 2 := rfl
@[simp] theorem State.enterException_epc (s : State) (c : BitVec 5) : (s.enterException c).epc = s.cia := rfl
@[simp] theorem State.enterException_ram (s : State) (c : BitVec 5) : (s.enterException c).ram = s.ram := rfl
@[simp] theorem State.enterException_scratch (s : State) (c : BitVec 5) : (s.enterException c).scratch = s.scratch := rfl
@[simp] theorem State.enterException_bios (s : State) (c : BitVec 5) : (s.enterException c).bios = s.bios := rfl
@[simp] theorem State.enterException_dma (s : State) (c : BitVec 5) : (s.enterException c).dma = s.dma := rfl
@[simp] theorem State.enterException_gpu (s : State) (c : BitVec 5) : (s.enterException c).gpu = s.gpu := rfl
@[simp] theorem State.enterException_devLog (s : State) (c : BitVec 5) : (s.enterException c).devLog = s.devLog := rfl

@[simp] theorem State.returnFromException_cfg (s : State) : (s.returnFromException).cfg = s.cfg := rfl
@[simp] theorem State.returnFromException_regs (s : State) : (s.returnFromException).regs = s.regs := rfl
@[simp] theorem State.returnFromException_hi (s : State) : (s.returnFromException).hi = s.hi := rfl
@[simp] theorem State.returnFromException_lo (s : State) : (s.returnFromException).lo = s.lo := rfl
@[simp] theorem State.returnFromException_currentPc (s : State) : (s.returnFromException).currentPc = s.currentPc := rfl
@[simp] theorem State.returnFromException_nextPc (s : State) : (s.returnFromException).nextPc = s.nextPc := rfl
@[simp] theorem State.returnFromException_cia (s : State) : (s.returnFromException).cia = s.cia := rfl
@[simp] theorem State.returnFromException_executedBranch (s : State) : (s.returnFromException).executedBranch = s.executedBranch := rfl
@[simp] theorem State.returnFromException_inDelaySlot (s : State) : (s.returnFromException).inDelaySlot = s.inDelaySlot := rfl
@[simp] theorem State.returnFromException_halted (s : State) : (s.returnFromException).halted = s.halted := rfl
@[simp] theorem State.returnFromException_sr (s : State) : (s.returnFromException).sr = popModeStack s.sr := rfl
@[simp] theorem State.returnFromException_cause (s : State) : (s.returnFromException).cause = s.cause := rfl
@[simp] theorem State.returnFromException_epc (s : State) : (s.returnFromException).epc = s.epc := rfl
@[simp] theorem State.returnFromException_ram (s : State) : (s.returnFromException).ram = s.ram := rfl
@[simp] theorem State.returnFromException_scratch (s : State) : (s.returnFromException).scratch = s.scratch := rfl
@[simp] theorem State.returnFromException_bios (s : State) : (s.returnFromException).bios = s.bios := rfl
@[simp] theorem State.returnFromException_dma (s : State) : (s.returnFromException).dma = s.dma := rfl
@[simp] theorem State.returnFromException_gpu (s : State) : (s.returnFromException).gpu = s.gpu := rfl
@[simp] theorem State.returnFromException_devLog (s : State) : (s.returnFromException).devLog = s.devLog := rfl

@[simp] theorem State.prologue_cfg (s : State) : (s.prologue).cfg = s.cfg := rfl
@[simp] theorem State.prologue_regs (s : State) : (s.prologue).regs = s.regs := rfl
@[simp] theorem State.prologue_hi (s : State) : (s.prologue).hi = s.hi := rfl
@[simp] theorem State.prologue_lo (s : State) : (s.prologue).lo = s.lo := rfl
@[simp] theorem State.prologue_currentPc (s : State) : (s.prologue).currentPc = s.nextPc := rfl
@[simp] theorem State.prologue_nextPc (s : State) : (s.prologue).nextPc = s.nextPc + 4 := rfl
@[simp] theorem State.prologue_cia (s : State) : (s.prologue).cia = s.currentPc := rfl
@[simp] theorem State.prologue_executedBranch (s : State) : (s.prologue).executedBranch = s.executedBranch := rfl
@[simp] theorem State.prologue_inDelaySlot (s : State) : (s.prologue).inDelaySlot = s.inDelaySlot := rfl
@[simp] theorem State.prologue_halted (s : State) : (s.prologue).halted = s.halted := rfl
@[simp] theorem State.prologue_sr (s : State) : (s.prologue).sr = s.sr := rfl
@[simp] theorem State.prologue_cause (s : State) : (s.prologue).cause = s.cause := rfl
@[simp] theorem State.prologue_epc (s : State) : (s.prologue).epc = s.epc := rfl
@[simp] theorem State.prologue_ram (s : State) : (s.prologue).ram = s.ram := rfl
@[simp] theorem State.prologue_scratch (s : State) : (s.prologue).scratch = s.scratch := rfl
@[simp] theorem State.prologue_bios (s : State) : (s.prologue).bios = s.bios := rfl
@[simp] theorem State.prologue_dma (s : State) : (s.prologue).dma = s.dma := rfl
@[simp] theorem State.prologue_gpu (s : State) : (s.prologue).gpu = s.gpu := rfl
@[simp] theorem State.prologue_devLog (s : State) : (s.prologue).devLog = s.devLog := rfl

@[simp] theorem State.epilogue_cfg (s : State) : (s.epilogue).cfg = s.cfg := rfl
@[simp] theorem State.epilogue_regs (s : State) : (s.epilogue).regs = s.regs := rfl
@[simp] theorem State.epilogue_hi (s : State) : (s.epilogue).hi = s.hi := rfl
@[simp] theorem State.epilogue_lo (s : State) : (s.epilogue).lo = s.lo := rfl
@[simp] theorem State.epilogue_currentPc (s : State) : (s.epilogue).currentPc = s.currentPc := rfl
@[simp] theorem State.epilogue_nextPc (s : State) : (s.epilogue).nextPc = s.nextPc := rfl
@[simp] theorem State.epilogue_cia (s : State) : (s.epilogue).cia = s.cia := rfl
@[simp] theorem State.epilogue_executedBranch (s : State) : (s.epilogue).executedBranch = false := rfl
@[simp] theorem State.epilogue_inDelaySlot (s : State) : (s.epilogue).inDelaySlot = s.executedBranch := rfl
@[simp] theorem State.epilogue_halted (s : State) : (s.epilogue).halted = s.halted := rfl
@[simp] theorem State.epilogue_sr (s : State) : (s.epilogue).sr = s.sr := rfl
@[simp] theorem State.epilogue_cause (s : State) : (s.epilogue).cause = s.cause := rfl
@[simp] theorem State.epilogue_epc (s : State) : (s.epilogue).epc = s.epc := rfl
@[simp] theorem State.epilogue_ram (s : State) : (s.epilogue).ram = s.ram := rfl
@[simp] theorem State.epilogue_scratch (s : State) : (s.epilogue).scratch = s.scratch := rfl
@[simp] theorem State.epilogue_bios (s : State) : (s.epilogue).bios = s.bios := rfl
@[simp] theorem State.epilogue_dma (s : State) : (s.epilogue).dma = s.dma := rfl
@[simp] theorem State.epilogue_gpu (s : State) : (s.epilogue).gpu = s.gpu := rfl
@[simp] theorem State.epilogue_devLog (s : State) : (s.epilogue).devLog = s.devLog := rfl

@[simp] theorem State.hostPreset_cfg (s : State) (d : Word) (bs : List Byte) : (s.hostPreset d bs).cfg = s.cfg := rfl
@[simp] theorem State.hostPreset_regs (s : State) (d : Word) (bs : List Byte) : (s.hostPreset d bs).regs = s.regs := rfl
@[simp] theorem State.hostPreset_hi (s : State) (d : Word) (bs : List Byte) : (s.hostPreset d bs).hi = s.hi := rfl
@[simp] theorem State.hostPreset_lo (s : State) (d : Word) (bs : List Byte) : (s.hostPreset d bs).lo = s.lo := rfl
@[simp] theorem State.hostPreset_currentPc (s : State) (d : Word) (bs : List Byte) : (s.hostPreset d bs).currentPc = s.currentPc := rfl
@[simp] theorem State.hostPreset_nextPc (s : State) (d : Word) (bs : List Byte) : (s.hostPreset d bs).nextPc = s.nextPc := rfl
@[simp] theorem State.hostPreset_cia (s : State) (d : Word) (bs : List Byte) : (s.hostPreset d bs).cia = s.cia := rfl
@[simp] theorem State.hostPreset_executedBranch (s : State) (d : Word) (bs : List Byte) : (s.hostPreset d bs).executedBranch = s.executedBranch := rfl
@[simp] theorem State.hostPreset_inDelaySlot (s : State) (d : Word) (bs : List Byte) : (s.hostPreset d bs).inDelaySlot = s.inDelaySlot := rfl
@[simp] theorem State.hostPreset_halted (s : State) (d : Word) (bs : List Byte) : (s.hostPreset d bs).halted = s.halted := rfl
@[simp] theorem State.hostPreset_sr (s : State) (d : Word) (bs : List Byte) : (s.hostPreset d bs).sr = s.sr := rfl
@[simp] theorem State.hostPreset_cause (s : State) (d : Word) (bs : List Byte) : (s.hostPreset d bs).cause = s.cause := rfl
@[simp] theorem State.hostPreset_epc (s : State) (d : Word) (bs : List Byte) : (s.hostPreset d bs).epc = s.epc := rfl
@[simp] theorem State.hostPreset_ram (s : State) (d : Word) (bs : List Byte) : (s.hostPreset d bs).ram = copyToRam s.ram d bs := rfl
@[simp] theorem State.hostPreset_scratch (s : State) (d : Word) (bs : List Byte) : (s.hostPreset d bs).scratch = s.scratch := rfl
@[simp] theorem State.hostPreset_bios (s : State) (d : Word) (bs : List Byte) : (s.hostPreset d bs).bios = s.bios := rfl
@[simp] theorem State.hostPreset_dma (s : State) (d : Word) (bs : List Byte) : (s.hostPreset d bs).dma = s.dma := rfl
@[simp] theorem State.hostPreset_gpu (s : State) (d : Word) (bs : List Byte) : (s.hostPreset d bs).gpu = s.gpu := rfl
@[simp] theorem State.hostPreset_devLog (s : State) (d : Word) (bs : List Byte) : (s.hostPreset d bs).devLog = s.devLog := rfl

/-! ## Registers read through the other updates -/

@[simp] theorem State.setHiLo_reg (s : State) (h l : Word) (r : Reg) : (s.setHiLo h l).reg r = s.reg r := State.reg_congr (by simp) r
@[simp] theorem State.setRamWord_reg (s : State) (o v : Word) (r : Reg) : (s.setRamWord o v).reg r = s.reg r := State.reg_congr (by simp) r
@[simp] theorem State.setMadr_reg (s : State) (n : ChannelId) (v : BitVec 24) (r : Reg) : (s.setMadr n v).reg r = s.reg r := State.reg_congr (by simp) r
@[simp] theorem State.setBcr_reg (s : State) (n : ChannelId) (v : Word) (r : Reg) : (s.setBcr n v).reg r = s.reg r := State.reg_congr (by simp) r
@[simp] theorem State.setChcr_reg (s : State) (n : ChannelId) (v : Word) (r : Reg) : (s.setChcr n v).reg r = s.reg r := State.reg_congr (by simp) r
@[simp] theorem State.logDropped_reg (s : State) (a : Word) (n : Width) (v : Word) (r : Reg) : (s.logDropped a n v).reg r = s.reg r := State.reg_congr (by simp) r
@[simp] theorem State.jumpTo_reg (s : State) (a : Word) (r : Reg) : (s.jumpTo a).reg r = s.reg r := State.reg_congr (by simp) r
@[simp] theorem State.branchIf_reg (s : State) (b : Bool) (o : Half) (r : Reg) : (s.branchIf b o).reg r = s.reg r := State.reg_congr (by simp) r
@[simp] theorem State.enterException_reg (s : State) (c : BitVec 5) (r : Reg) : (s.enterException c).reg r = s.reg r := State.reg_congr (by simp) r
@[simp] theorem State.returnFromException_reg (s : State) (r : Reg) : (s.returnFromException).reg r = s.reg r := State.reg_congr (by simp) r
@[simp] theorem State.prologue_reg (s : State) (r : Reg) : (s.prologue).reg r = s.reg r := State.reg_congr (by simp) r
@[simp] theorem State.epilogue_reg (s : State) (r : Reg) : (s.epilogue).reg r = s.reg r := State.reg_congr (by simp) r
@[simp] theorem State.hostPreset_reg (s : State) (d : Word) (bs : List Byte) (r : Reg) : (s.hostPreset d bs).reg r = s.reg r := State.reg_congr (by simp) r

@[simp] theorem State.link_reg (s : State) (i r : Reg) :
    (s.link i).reg r = if r = i then written i s.nextPc else s.reg r := State.reg_setReg s i r s.nextPc

end Sys2Proof.Machine
end

