-- ==== Sys2Proof/Laws/Dma.lean ====
section
/-!
SUPPORT. The DMA engine: its registers read back, one unfolding lemma for each transfer loop, what a whole transfer
keeps, and that no channel is active after it (R326).
-/

namespace Sys2Proof.Machine

/-! ## Channel registers -/

theorem Dma.channel_setChannel (d : Dma) (n m : ChannelId) (ch : Channel) :
    (d.setChannel n ch).channel m = if m = n then ch else d.channel m := by
  unfold Dma.setChannel Dma.channel
  split
  · next h => subst h; simp
  · next h =>
    simp only [Fin.ext_iff] at h
    rw [Vector.getElem_set_ne _ _ (fun e => h e.symm)]

theorem State.channel_eq (s : State) (n : ChannelId) : s.channel n = s.dma.channel n := rfl

theorem State.channel_congr {s t : State} (h : t.dma.channels = s.dma.channels) (n : ChannelId) :
    t.channel n = s.channel n := by
  unfold State.channel Dma.channel; rw [h]

theorem State.channel_setChcr (s : State) (n m : ChannelId) (v : Word) :
    (s.setChcr n v).channel m = if m = n then { s.channel n with chcr := v } else s.channel m :=
  Dma.channel_setChannel ..

theorem State.channel_setMadr (s : State) (n m : ChannelId) (v : BitVec 24) :
    (s.setMadr n v).channel m = if m = n then { s.channel n with madr := v } else s.channel m :=
  Dma.channel_setChannel ..

theorem State.channel_setBcr (s : State) (n m : ChannelId) (v : Word) :
    (s.setBcr n v).channel m = if m = n then { s.channel n with bcr := v } else s.channel m :=
  Dma.channel_setChannel ..

/-! ## The loops, one turn at a time -/

@[simp] theorem dmaBlock_zero (n : ChannelId) (c addr : Word) (s : State) : dmaBlock n c 0 addr s = .next s := rfl

theorem dmaBlock_succ (n : ChannelId) (c : Word) (k : Nat) (addr : Word) (s : State) :
    dmaBlock n c (k + 1) addr s = (dmaUnit n c (k + 1) addr s).andThen (dmaBlock n c k (dmaNext c addr)) := by
  simp only [dmaBlock]; cases dmaUnit n c (k + 1) addr s <;> rfl

@[simp] theorem dmaForward_zero (addr : Word) (s : State) : dmaForward 0 addr s = .next s := rfl

theorem dmaForward_succ (k : Nat) (addr : Word) (s : State) :
    dmaForward (k + 1) addr s = (s.gp0 (s.ramWord (listNext addr))).andThen (dmaForward k (listNext addr)) := by
  simp only [dmaForward]; cases s.gp0 (s.ramWord (listNext addr)) <;> rfl

theorem dmaListFrom_succ (n : ChannelId) (k : Nat) (addr : Word) (s : State) :
    dmaListFrom n (k + 1) addr s = (dmaForward (headerCount (s.ramWord addr)) addr s).andThen fun s' =>
      if headerEnds (s.ramWord addr) then .next s' else dmaListFrom n k (headerNext (s.ramWord addr)) s' := by
  simp only [dmaListFrom]; cases dmaForward (headerCount (s.ramWord addr)) addr s <;> rfl

/-! ## What a transfer keeps -/

/-- Everything one unit can do: store one word of a cleared ordering table, or hand one word to the GPU. -/
theorem dmaUnit_eq_next {n : ChannelId} {c addr : Word} {rem : Nat} {s t : State} :
    dmaUnit n c rem addr s = .next t ↔
      (chcrFromRam c = false ∧ n = otcChannel ∧ t = s.setRamWord (addr &&& ramWordMask) (otcValue rem addr)) ∨
      (chcrFromRam c = true ∧ n = gpuChannel ∧ s.gp0 (s.ramWord (addr &&& ramWordMask)) = .next t) := by
  unfold dmaUnit
  simp only
  split
  · next h => simp [h, eq_comm]
  · next h =>
    split
    · next h' => simp [h']
    · next h' =>
      simp only [State.stop_ne_next, false_iff]
      rintro (⟨h1, h2, -⟩ | ⟨h1, h2, -⟩)
      · exact h ⟨h1, h2⟩
      · exact h' ⟨h1, h2⟩

section Keeps

variable {P : State → Prop} (hram : ∀ s a v, P s → P (s.setRamWord (a &&& ramWordMask) v))
  (hgp0 : ∀ s w t, P s → s.gp0 w = .next t → P t)

include hram hgp0 in
theorem dmaBlock_keeps {n : ChannelId} {c : Word} {k : Nat} {addr : Word} {s t : State} (hs : P s)
    (h : dmaBlock n c k addr s = .next t) : P t := by
  induction k generalizing addr s with
  | zero => cases h; exact hs
  | succ k ih =>
    rw [dmaBlock_succ, Result.andThen_eq_next] at h
    obtain ⟨s', h1, h2⟩ := h
    refine ih ?_ h2
    rcases dmaUnit_eq_next.1 h1 with ⟨-, -, rfl⟩ | ⟨-, -, h1⟩
    · exact hram _ _ _ hs
    · exact hgp0 _ _ _ hs h1

include hgp0 in
theorem dmaForward_keeps {k : Nat} {addr : Word} {s t : State} (hs : P s) (h : dmaForward k addr s = .next t) :
    P t := by
  induction k generalizing addr s with
  | zero => cases h; exact hs
  | succ k ih =>
    rw [dmaForward_succ, Result.andThen_eq_next] at h
    obtain ⟨s', h1, h2⟩ := h
    exact ih (hgp0 _ _ _ hs h1) h2

include hgp0 in
theorem dmaListFrom_keeps {n : ChannelId} {k : Nat} {addr : Word} {s t : State} (hs : P s)
    (h : dmaListFrom n k addr s = .next t) : P t := by
  induction k generalizing addr s with
  | zero => cases h
  | succ k ih =>
    rw [dmaListFrom_succ, Result.andThen_eq_next] at h
    obtain ⟨s', h1, h2⟩ := h
    have := dmaForward_keeps hgp0 hs h1
    split at h2
    · cases h2; exact this
    · exact ih this h2

include hram hgp0 in
/-- What every main-memory word and every GPU word keeps, a whole run of a transfer keeps. -/
theorem dmaRun_keeps {n : ChannelId} {s t : State} (hs : P s) (h : dmaRun n s = .next t) : P t := by
  unfold dmaRun at h
  simp only at h
  split at h
  · exact dmaBlock_keeps hram hgp0 hs h
  · exact dmaBlock_keeps hram hgp0 hs h
  · split at h
    · cases h
    · exact dmaListFrom_keeps hgp0 hs h
  · cases h

include hram hgp0 in
/-- The same for a whole write of a channel-control register (R308), its store and completion included. -/
theorem chcrWrite_keeps {n : ChannelId} {v : Word} {s t : State} (hset : ∀ v, P s → P (s.setChcr n v))
    (hdone : ∀ s, P s → P (dmaComplete n s)) (hs : P s) (h : chcrWrite n v s = .next t) : P t := by
  unfold chcrWrite at h
  simp only at h
  split at h
  · unfold dmaTransfer at h
    rw [Result.andThen_eq_next] at h
    obtain ⟨s', h1, h2⟩ := h
    cases h2
    exact hdone _ (dmaRun_keeps hram hgp0 (hset v hs) h1)
  · cases h; exact hset v hs

end Keeps

/-- A transfer reads the DMA registers and writes none of them before completion. -/
theorem dmaRun_dma {n : ChannelId} {s t : State} (h : dmaRun n s = .next t) : t.dma = s.dma :=
  dmaRun_keeps (P := fun x => x.dma = s.dma) (fun _ _ _ hx => by simpa using hx)
    (fun x w y hx hy => by obtain ⟨g, -, rfl⟩ := State.gp0_eq_next.1 hy; exact hx) rfl h

/-! ## Completion (R323, R324) -/

/-- Signalling changes `irqPending` and `dev_log` and nothing else. -/
theorem State.signalDma_channels (s : State) (n : ChannelId) : (s.signalDma n).dma.channels = s.dma.channels := by
  unfold State.signalDma; split <;> rfl

theorem State.signalDma_only (s : State) (n : ChannelId) : { s.signalDma n with dma := s.dma, devLog := s.devLog } = s := by
  unfold State.signalDma; split <;> rfl

theorem dmaComplete_channels (n : ChannelId) (s : State) :
    (dmaComplete n s).dma.channels = (s.setChcr n (chcrDone (s.channel n).chcr)).dma.channels :=
  State.signalDma_channels ..

theorem dmaComplete_channel (n m : ChannelId) (s : State) :
    (dmaComplete n s).channel m =
      if m = n then { s.channel n with chcr := chcrDone (s.channel n).chcr } else s.channel m := by
  rw [State.channel_congr (dmaComplete_channels n s), State.channel_setChcr]

/-- Completion changes the DMA registers and `dev_log` and nothing else. -/
theorem dmaComplete_only (n : ChannelId) (s : State) :
    { dmaComplete n s with dma := s.dma, devLog := s.devLog } = s := by
  unfold dmaComplete State.signalDma
  simp only
  split <;> rfl

/-- A completed channel is not active: its enable bit is clear. -/
theorem chcrActive_completed (c : Word) : chcrActive (chcrDone c) = false := by
  have : (chcrDone c)[24] = false := by simp [chcrDone]
  simp [chcrActive, chcrEnable, this]

theorem Dma.noneActive_complete {n : ChannelId} {s : State} (h : ∀ m, m ≠ n → chcrActive (s.channel m).chcr = false) :
    (dmaComplete n s).dma.NoneActive := by
  intro m
  show chcrActive ((dmaComplete n s).channel m).chcr = false
  rw [dmaComplete_channel]
  split
  · exact chcrActive_completed _
  · next hm => exact h m hm

/-- After a write of a channel-control register no channel is active (R326). -/
theorem Dma.noneActive_chcrWrite {n : ChannelId} {v : Word} {s t : State} (hs : s.dma.NoneActive)
    (h : chcrWrite n v s = .next t) : t.dma.NoneActive := by
  unfold chcrWrite at h
  simp only at h
  split at h
  · unfold dmaTransfer at h
    rw [Result.andThen_eq_next] at h
    obtain ⟨s', h1, h2⟩ := h
    cases h2
    refine Dma.noneActive_complete fun m hm => ?_
    rw [State.channel_eq, dmaRun_dma h1, ← State.channel_eq, State.channel_setChcr, if_neg hm]
    exact hs m
  · next hv =>
    cases h
    intro m
    show chcrActive ((s.setChcr n v).channel m).chcr = false
    rw [State.channel_setChcr]
    split
    · simpa using hv
    · exact hs m

end Sys2Proof.Machine
end

