-- ==== Sys2Proof/Laws/Router.lean ====
section
/-!
SUPPORT. The Router: what a read depends on, everything a store can do, and what it keeps.
-/

namespace Sys2Proof.Machine

/-! ## Reads (R80, R94) -/

/-- What a read depends on: the memories, the DMA registers, `gpu_status`, and the fixed parameters. -/
theorem State.memRead_congr {s t : State} (hc : t.cfg = s.cfg) (hr : t.ram = s.ram) (hs : t.scratch = s.scratch)
    (hb : t.bios = s.bios) (hd : t.dma = s.dma) (hg : t.gpu.status = s.gpu.status) (a : Word) (n : Width) :
    t.memRead a n = s.memRead a n := by
  have hdev : ∀ p, t.devRead p n = s.devRead p n := fun p => by
    unfold State.devRead
    split
    · next r _ =>
      split
      · cases r <;> simp only [State.devRegRead, State.channel, hd, hg]
      · rfl
    · rfl
  unfold State.memRead
  simp only [hc, hr, hs, hb, hdev]

/-- A register write changes no read. -/
theorem SameBytes.setReg (s : State) (i : Reg) (v : Word) : SameBytes s (s.setReg i v) := fun a =>
  State.memRead_congr (by simp) (by simp) (by simp) (by simp) (by simp) (by simp) a .byte

/-- The frame of an instruction that writes one general register. -/
theorem OnlyRegister.setReg (s : State) (i : Reg) (v : Word) : OnlyRegister i v s (s.setReg i v) :=
  ⟨s.reg_setReg_self i v, fun r h => s.reg_setReg_other i r v h, s.setReg_only i v, SameBytes.setReg s i v⟩

/-- The frame of an instruction that writes `hi` and `lo`. -/
theorem OnlyHiLo.setHiLo (s : State) (h l : Word) : OnlyHiLo h l s (s.setHiLo h l) :=
  ⟨rfl, rfl, rfl, fun a => State.memRead_congr rfl rfl rfl rfl rfl rfl a .byte⟩

/-- A physical address inside a region starts at or after its base and ends inside it, when the region's bounds and
the address are multiples of the width. -/
theorem inRegion_bounds {r : Region} {p : Word} (h : inRegion r p = true) : r.base ≤ p.toNat ∧ p.toNat < r.base + r.size := by
  simpa [inRegion] using h

/-! ## The segment mask keeps the low address bits -/

theorem segMask_cases (i : BitVec 3) : segMask i = 0x7FFFFFFF ∨ segMask i = 0x1FFFFFFF ∨ segMask i = 0xFFFFFFFF := by
  unfold segMask; split <;> simp

theorem Word.and_mask_toNat_mod (a m : Word) (hm : m &&& 3 = 3) : (a &&& m).toNat % 4 = a.toNat % 4 := by
  have h : (a &&& m) &&& 3 = a &&& 3 := by rw [BitVec.and_assoc, hm]
  have h' := congrArg BitVec.toNat h
  simp only [BitVec.toNat_and] at h' ⊢
  have e : ∀ x : Nat, x &&& (3 : Word).toNat = x % 4 := fun x => Nat.and_two_pow_sub_one_eq_mod x 2
  rw [e, e] at h'
  exact h'

theorem physOf_toNat_mod (a : Word) : (physOf a).toNat % 4 = a.toNat % 4 :=
  Word.and_mask_toNat_mod a _ (by rcases segMask_cases (a.extractLsb' 29 3) with h | h | h <;> rw [h] <;> decide)

theorem isMisaligned_eq_false {a : Word} {n : Width} : isMisaligned a n = false ↔ a.toNat % n.bytes = 0 := by
  simp [isMisaligned]

/-- An aligned access and the word that holds it: the bytes of the access lie inside it. -/
theorem aligned_mod {x : Nat} {n : Width} (h : x % n.bytes = 0) : x % 4 + n.bytes ≤ 4 := by
  cases n <;> simp only [Width.bytes] at * <;> omega

theorem ramOffset_eq (p : Word) : ramOffset p = p.toNat % 0x200000 := by
  unfold ramOffset ramMask
  rw [BitVec.toNat_and]
  exact Nat.and_two_pow_sub_one_eq_mod p.toNat 21

/-- An aligned access ends inside main memory. -/
theorem ramOffset_bounds {a : Word} {n : Width} (h : a.toNat % n.bytes = 0) :
    ramOffset (physOf a) + n.bytes ≤ Config.ramSize := by
  have h1 := aligned_mod h
  have h2 := physOf_toNat_mod a
  rw [ramOffset_eq]
  unfold Config.ramSize
  omega

/-- An aligned access that begins in a region of word-aligned bounds ends in it. -/
theorem region_bounds {r : Region} {a : Word} {n : Width} (h : a.toNat % n.bytes = 0) (hb : r.base % 4 = 0)
    (hs : r.size % 4 = 0) (hin : inRegion r (physOf a) = true) :
    (physOf a).toNat - r.base + n.bytes ≤ r.size := by
  obtain ⟨h3, h4⟩ := inRegion_bounds hin
  have h1 := aligned_mod h
  have h2 := physOf_toNat_mod a
  omega

/-! ## Region decode (R73) -/

theorem regionOf_ram {c : Config} {p : Word} (h : regionOf c p = .ram) : inRegion c.ramWindow p = true := by
  unfold regionOf at h
  split at h
  · assumption
  · split at h <;> (try split at h) <;> (try split at h) <;> (try split at h) <;> cases h

theorem regionOf_scratch {c : Config} {p : Word} (h : regionOf c p = .scratch) :
    inRegion ⟨c.scratchBase, Config.scratchSize⟩ p = true := by
  unfold regionOf at h
  split at h
  · cases h
  · split at h
    · cases h
    · split at h
      · assumption
      · split at h <;> (try split at h) <;> cases h

theorem regionOf_bios {c : Config} {p : Word} (h : regionOf c p = .bios) : inRegion c.bios p = true := by
  unfold regionOf at h
  split at h
  · cases h
  · split at h
    · cases h
    · split at h
      · cases h
      · split at h
        · cases h
        · split at h
          · assumption
          · cases h

/-! ## Everything a store can do (R81) -/

/-- Everything a device write can do. -/
theorem State.devWrite_eq_next {s t : State} {p : Word} {n : Width} {v : Word} (h : s.devWrite p n v = .next t) :
    (devRegAt p = none ∧ t = s.logDropped p n v) ∨
      ∃ r, devRegAt p = some r ∧ n = .word ∧ s.devRegWrite r v = .next t := by
  unfold State.devWrite at h
  split at h
  · next r hr =>
    split at h
    · next hn => exact .inr ⟨r, hr, hn, h⟩
    · cases h
  · next hr => cases h; exact .inl ⟨hr, rfl⟩

/-- Everything a store through the Router can do. -/
theorem State.memWrite_eq_next {s t : State} {a : Word} {n : Width} {v : Word} (h : s.memWrite a n v = .next t) :
    isMisaligned a n = false ∧
      ((regionOf s.cfg (physOf a) = .ram ∧ t = { s with ram := s.ram.writeLE (ramOffset (physOf a)) n v }) ∨
       (regionOf s.cfg (physOf a) = .exp1 ∧ t = s.logDropped a n v) ∨
       (regionOf s.cfg (physOf a) = .scratch ∧
          t = { s with scratch := s.scratch.writeLE (scratchOffset s.cfg (physOf a)) n v }) ∨
       (regionOf s.cfg (physOf a) = .io ∧ s.devWrite (physOf a) n v = .next t)) := by
  unfold State.memWrite at h
  split at h
  · cases h
  · next hm =>
    refine ⟨by simpa using hm, ?_⟩
    simp only at h
    split at h
    · next hr => cases h; exact .inl ⟨hr, rfl⟩
    · next hr => cases h; exact .inr (.inl ⟨hr, rfl⟩)
    · next hr => cases h; exact .inr (.inr (.inl ⟨hr, rfl⟩))
    · next hr => exact .inr (.inr (.inr ⟨hr, h⟩))
    · cases h
    · cases h

/-- The primitive updates that a store is made of: what keeps each of them is kept by every store. -/
structure StoreKeeps (P : State → Prop) : Prop where
  ram : ∀ s a n v, P s → a.toNat % n.bytes = 0 →
    P { s with ram := s.ram.writeLE (ramOffset (physOf a)) n v }
  scratch : ∀ s a n v, P s → a.toNat % n.bytes = 0 → regionOf s.cfg (physOf a) = .scratch →
    P { s with scratch := s.scratch.writeLE (scratchOffset s.cfg (physOf a)) n v }
  log : ∀ s a n v, P s → P (s.logDropped a n v)
  madr : ∀ s n v, P s → P (s.setMadr n v)
  bcr : ∀ s n v, P s → P (s.setBcr n v)
  chcr : ∀ s n v t, P s → chcrWrite n v s = .next t → P t
  dpcr : ∀ s v, P s → P { s with dma := { s.dma with dpcr := v } }
  dicr : ∀ s v, P s → P { s with dma := s.dma.dicrWrite v }
  gp0 : ∀ s w t, P s → s.gp0 w = .next t → P t
  gp1 : ∀ s w t, P s → s.gp1 w = .next t → P t

theorem StoreKeeps.devRegWrite {P : State → Prop} (k : StoreKeeps P) {s t : State} {r : DevReg} {v : Word}
    (hs : P s) (h : s.devRegWrite r v = .next t) : P t := by
  cases r <;> simp only [State.devRegWrite] at h
  · cases h; exact k.madr _ _ _ hs
  · cases h; exact k.bcr _ _ _ hs
  · exact k.chcr _ _ _ _ hs h
  · cases h; exact k.dpcr _ _ hs
  · cases h; exact k.dicr _ _ hs
  · exact k.gp0 _ _ _ hs h
  · exact k.gp1 _ _ _ hs h

theorem StoreKeeps.memWrite {P : State → Prop} (k : StoreKeeps P) {s t : State} {a : Word} {n : Width} {v : Word}
    (hs : P s) (h : s.memWrite a n v = .next t) : P t := by
  obtain ⟨hm, h⟩ := State.memWrite_eq_next h
  rw [isMisaligned_eq_false] at hm
  rcases h with ⟨-, rfl⟩ | ⟨-, rfl⟩ | ⟨hr, rfl⟩ | ⟨-, h⟩
  · exact k.ram _ _ _ _ hs hm
  · exact k.log _ _ _ _ hs
  · exact k.scratch _ _ _ _ hs hm hr
  · rcases State.devWrite_eq_next h with ⟨-, rfl⟩ | ⟨r, -, -, h⟩
    · exact k.log _ _ _ _ hs
    · exact k.devRegWrite hs h

/-- A store changes the memories, the DMA engine, the GPU and `dev_log` and nothing else (R252). -/
theorem State.memWrite_only {s t : State} {a : Word} {n : Width} {v : Word} (h : s.memWrite a n v = .next t) :
    { t with ram := s.ram, scratch := s.scratch, dma := s.dma, gpu := s.gpu, devLog := s.devLog } = s := by
  refine StoreKeeps.memWrite (P := fun x =>
    { x with ram := s.ram, scratch := s.scratch, dma := s.dma, gpu := s.gpu, devLog := s.devLog } = s)
    ?_ rfl h
  have hg : ∀ x w y, { x with ram := s.ram, scratch := s.scratch, dma := s.dma, gpu := s.gpu, devLog := s.devLog } = s →
      State.gp0 x w = .next y →
      { y with ram := s.ram, scratch := s.scratch, dma := s.dma, gpu := s.gpu, devLog := s.devLog } = s :=
    fun x w y hx hy => by obtain ⟨g, -, rfl⟩ := State.gp0_eq_next.1 hy; exact hx
  constructor
  · intros; assumption
  · intros; assumption
  · intros; assumption
  · intros; assumption
  · intros; assumption
  · intro x n v y hx hy
    refine chcrWrite_keeps (P := fun x =>
      { x with ram := s.ram, scratch := s.scratch, dma := s.dma, gpu := s.gpu, devLog := s.devLog } = s)
      (fun _ _ _ h => h) hg (fun _ h => h) (fun x hx => ?_) hx hy
    show _ = s
    rw [← hx]
    unfold dmaComplete State.signalDma
    simp only
    split <;> rfl
  · intros; assumption
  · intros; assumption
  · exact hg
  · intro x w y hx hy
    obtain ⟨g, -, rfl⟩ := State.gp1_eq_next.1 hy
    exact hx

/-! ## The loads and the stores of the CPU (R250, R251) -/

/-- Everything a load can do. -/
theorem State.loadFrom_eq_next {s t : State} {rt : Reg} {a : Word} {n : Width} {f : Word → Word}
    (h : s.loadFrom rt a n f = .next t) :
    (s.isolated = true ∧ t = s) ∨ (s.isolated = false ∧ ∃ v, s.memRead a n = .ok v ∧ t = s.setReg rt (f v)) := by
  unfold State.loadFrom at h
  split at h
  · next hi => cases h; exact .inl ⟨hi, rfl⟩
  · next hi =>
    split at h
    · next v hv => cases h; exact .inr ⟨by simpa using hi, v, hv, rfl⟩
    · cases h

/-- Everything a plain store can do. -/
theorem State.storeTo_eq_next {s t : State} {a : Word} {n : Width} {v : Word} (h : s.storeTo a n v = .next t) :
    (s.isolated = true ∧ t = s) ∨ (s.isolated = false ∧ s.memWrite a n v = .next t) := by
  unfold State.storeTo at h
  split at h
  · next hi => cases h; exact .inl ⟨hi, rfl⟩
  · next hi => exact .inr ⟨by simpa using hi, h⟩

/-- Everything `swl` and `swr` can do. -/
theorem State.mergeTo_eq_next {s t : State} {a : Word} {f : Word → Word} (h : s.mergeTo a f = .next t) :
    (s.isolated = true ∧ t = s) ∨
      (s.isolated = false ∧ ∃ m, s.memRead a .word = .ok m ∧ s.memWrite a .word (f m) = .next t) := by
  unfold State.mergeTo at h
  split at h
  · next hi => cases h; exact .inl ⟨hi, rfl⟩
  · next hi =>
    split at h
    · next v hv => exact .inr ⟨by simpa using hi, v, hv, h⟩
    · cases h

end Sys2Proof.Machine
end

