-- ==== Sys2Proof/Laws/Exec.lean ====
section
/-!
SUPPORT. Everything a step can do, said once: the primitive updates every meaning is made of, and that what each of
them keeps is kept by every instruction; the inversion of a step that has a next state.
-/

namespace Sys2Proof.Machine

/-! ## The updates instructions are made of -/

/-- What keeps each of these updates is kept by every instruction. -/
structure ExecKeeps (P : State → Prop) : Prop extends StoreKeeps P where
  setReg : ∀ s i v, P s → P (s.setReg i v)
  setHiLo : ∀ s h l, P s → P (s.setHiLo h l)
  branch : ∀ s, P s → P { s with executedBranch := true }
  jump : ∀ s a, P s → P (s.jumpTo a)
  sr : ∀ s v, P s → P { s with sr := v }
  cause : ∀ s v, P s → P { s with cause := v }
  epc : ∀ s v, P s → P { s with epc := v }
  exception : ∀ s c, P s → P (s.enterException c)

namespace ExecKeeps

variable {P : State → Prop} (k : ExecKeeps P) {s t : State}

include k

theorem writeResult {rd : Reg} {r : Word} (hs : P s) (h : s.writeResult rd r = .next t) : P t := by
  cases h; exact k.setReg _ _ _ hs

theorem writeThenTrap {rd : Reg} {r : Word} {ov : Bool} (hs : P s) (h : s.writeThenTrap rd r ov = .next t) : P t := by
  rcases State.writeThenTrap_eq_next.1 h with ⟨-, rfl⟩ | ⟨-, -, -, rfl⟩
  · exact k.setReg _ _ _ hs
  · exact k.exception _ _ (k.setReg _ _ _ hs)

theorem raise {c : BitVec 5} (hs : P s) (h : s.raise c = .next t) : P t := by
  obtain ⟨-, rfl⟩ := State.raise_eq_next.1 h
  exact k.exception _ _ hs

theorem branchIf {b : Bool} {o : Half} (hs : P s) : P (s.branchIf b o) := by
  cases b
  · exact hs
  · exact k.jump _ _ hs

theorem link {i : Reg} (hs : P s) : P (s.link i) := k.setReg _ _ _ hs

theorem branchEntry {f : State → State} (hf : ∀ x, P x → P (f x)) (hs : P s) (h : s.branchEntry f = .next t) : P t := by
  obtain ⟨-, rfl⟩ := State.branchEntry_eq_next.1 h
  exact hf _ (k.branch _ hs)

theorem loadFrom {rt : Reg} {a : Word} {n : Width} {f : Word → Word} (hs : P s) (h : s.loadFrom rt a n f = .next t) :
    P t := by
  rcases State.loadFrom_eq_next h with ⟨-, rfl⟩ | ⟨-, v, -, rfl⟩
  · exact hs
  · exact k.setReg _ _ _ hs

theorem storeTo {a : Word} {n : Width} {v : Word} (hs : P s) (h : s.storeTo a n v = .next t) : P t := by
  rcases State.storeTo_eq_next h with ⟨-, rfl⟩ | ⟨-, h⟩
  · exact hs
  · exact k.memWrite hs h

theorem mergeTo {a : Word} {f : Word → Word} (hs : P s) (h : s.mergeTo a f = .next t) : P t := by
  rcases State.mergeTo_eq_next h with ⟨-, rfl⟩ | ⟨-, m, -, h⟩
  · exact hs
  · exact k.memWrite hs h

theorem mfc0 {rt rd : Reg} (hs : P s) (h : execMfc0 rt rd s = .next t) : P t := by
  unfold execMfc0 at h
  split at h
  · cases h; exact k.setReg _ _ _ hs
  · cases h

theorem mtc0 {rt rd : Reg} (hs : P s) (h : execMtc0 rt rd s = .next t) : P t := by
  unfold execMtc0 at h
  split at h
  · next r _ =>
    cases r <;> simp only [State.cop0Write] at h
    · cases h; exact k.sr _ _ hs
    · unfold State.causeWrite at h
      split at h
      · cases h
      · split at h <;> cases h
        · exact hs
        · exact k.cause _ _ hs
    · cases h; exact k.epc _ _ hs
  · cases h

/-- What every update keeps, every instruction keeps. -/
theorem exec {i : Instr} (hs : P s) (h : exec i s = .next t) : P t := by
  cases i <;> simp only [Sys2Proof.Machine.exec] at h
  case addi | add | sub => exact k.writeThenTrap hs h
  case addu | subu | and | or | xor | nor | slt | sltu | sll | srl | sra | sllv | srlv | srav | addiu | slti | sltiu
    | andi | ori | xori | lui => exact k.writeResult hs h
  case mult | multu | div | divu | mthi | mtlo => cases h; exact k.setHiLo _ _ _ hs
  case mfhi | mflo => cases h; exact k.setReg _ _ _ hs
  case j | jr => exact k.branchEntry (fun x hx => k.jump _ _ hx) hs h
  case jal | jalr => exact k.branchEntry (fun x hx => k.jump _ _ (k.link hx)) hs h
  case beq | bne | blez | bgtz | bltz | bgez => exact k.branchEntry (fun x hx => k.branchIf hx) hs h
  case bltzal | bgezal => exact k.branchEntry (fun x hx => k.branchIf (k.link hx)) hs h
  case lb | lbu | lh | lhu | lw | lwl | lwr => exact k.loadFrom hs h
  case sb | sh | sw => exact k.storeTo hs h
  case swl | swr => exact k.mergeTo hs h
  case syscall | brk => exact k.raise hs h
  case mfc0 => exact k.mfc0 hs h
  case mtc0 => exact k.mtc0 hs h
  case rfe => cases h; exact k.sr _ _ hs
  case gp0Nop | gp0CacheFlushStub | gp0Interrupt | gp0MonoQuad | gp0ShadedTriangle | gp0ShadedQuad | gp0ImageLoad
    | gp0DrawMode | gp0TextureWindow | gp0DrawAreaTopLeft | gp0DrawAreaBottomRight | gp0DrawOffset | gp0MaskBits =>
    exact State.gp0Stream_keeps k.gp0 hs h
  case gp1SoftReset | gp1InterruptAcknowledge | gp1DisplayEnable | gp1DmaDirection | gp1DisplayOrigin
    | gp1HorizontalRange | gp1VerticalRange | gp1DisplayMode => exact State.gp1Stream_keeps k.gp1 hs h

end ExecKeeps

/-! ## The step (R410) -/

/-- Everything a step that has a next state did: not halted, a word fetched, decoded and executed, the epilogue. -/
theorem step_eq_next {s t : State} (h : step s = .next t) :
    s.halted = none ∧ ∃ w i u, s.fetch = .ok w ∧ decodeCpu w = .ok i ∧ exec i s.prologue = .next u ∧ t = u.epilogue := by
  unfold step at h
  split at h
  · cases h
  · next hh =>
    refine ⟨hh, ?_⟩
    unfold State.cycle at h
    split at h
    · next w hw =>
      unfold State.runWord at h
      split at h
      · next i hi =>
        obtain ⟨u, h1, h2⟩ := Result.andThen_eq_next.1 h
        cases h2
        exact ⟨w, i, u, hw, hi, h1, rfl⟩
      · cases h
    · cases h

end Sys2Proof.Machine
end

