-- ==== Sys2Proof/Laws/PerInstr.lean ====
section
/-!
SUPPORT. For every instruction: the word it is encoded by satisfies its row of the opcode table (R135), key bits and all.
-/

namespace Sys2Proof

/-! ## Key bits of each word format (R132) -/

theorem and_zeroLit {n : Nat} (x : BitVec n) : x &&& (0 : BitVec n) = 0 := BitVec.and_zero

theorem rWord_key (op : BitVec 6) (rs rt rd sh : BitVec 5) (fn : BitVec 6) :
    rWord op rs rt rd sh fn &&& 0xFC00003F = rWord op 0 0 0 0 fn := by
  rw [show (0xFC00003F : Word) =
    BitVec.allOnes 6 ++ (0 : BitVec 5) ++ (0 : BitVec 5) ++ (0 : BitVec 5) ++ (0 : BitVec 5) ++ BitVec.allOnes 6 by decide]
  unfold rWord
  repeat rw [BitVec.and_append]
  simp only [BitVec.and_allOnes, and_zeroLit]

theorem iWord_key (op : BitVec 6) (rs rt : BitVec 5) (imm : Half) :
    iWord op rs rt imm &&& 0xFC000000 = iWord op 0 0 0 := by
  rw [show (0xFC000000 : Word) =
    BitVec.allOnes 6 ++ (0 : BitVec 5) ++ (0 : BitVec 5) ++ (0 : BitVec 16) by decide]
  unfold iWord
  repeat rw [BitVec.and_append]
  simp only [BitVec.and_allOnes, and_zeroLit]

theorem iWord_regimm_key (op : BitVec 6) (rs rt : BitVec 5) (imm : Half) :
    iWord op rs rt imm &&& 0xFC1F0000 = iWord op 0 rt 0 := by
  rw [show (0xFC1F0000 : Word) =
    BitVec.allOnes 6 ++ (0 : BitVec 5) ++ BitVec.allOnes 5 ++ (0 : BitVec 16) by decide]
  unfold iWord
  repeat rw [BitVec.and_append]
  simp only [BitVec.and_allOnes, and_zeroLit]

theorem rWord_cop_key (op : BitVec 6) (rs rt rd sh : BitVec 5) (fn : BitVec 6) :
    rWord op rs rt rd sh fn &&& 0xFFE00000 = rWord op rs 0 0 0 0 := by
  rw [show (0xFFE00000 : Word) =
    BitVec.allOnes 6 ++ BitVec.allOnes 5 ++ (0 : BitVec 5) ++ (0 : BitVec 5) ++ (0 : BitVec 5) ++ (0 : BitVec 6) by decide]
  unfold rWord
  repeat rw [BitVec.and_append]
  simp only [BitVec.and_allOnes, and_zeroLit]

theorem jWord_key (op : BitVec 6) (target : BitVec 26) :
    jWord op target &&& 0xFC000000 = jWord op 0 := by
  rw [show (0xFC000000 : Word) =
    BitVec.allOnes 6 ++ (0 : BitVec 26) by decide]
  unfold jWord
  repeat rw [BitVec.and_append]
  simp only [BitVec.and_allOnes, and_zeroLit]

theorem gpuWord_key (op : BitVec 8) (payload : BitVec 24) :
    gpuWord op payload &&& 0xFF000000 = gpuWord op 0 := by
  rw [show (0xFF000000 : Word) =
    BitVec.allOnes 8 ++ (0 : BitVec 24) by decide]
  unfold gpuWord
  repeat rw [BitVec.and_append]
  simp only [BitVec.and_allOnes, and_zeroLit]

theorem gpuWord_gp1_key (op : BitVec 8) (payload : BitVec 24) :
    gpuWord op payload &&& 0x3F000000 = gpuWord (op &&& 63) 0 := by
  rw [show (0x3F000000 : Word) =
    (63 : BitVec 8) ++ (0 : BitVec 24) by decide]
  unfold gpuWord
  repeat rw [BitVec.and_append]
  rw [and_zeroLit]

end Sys2Proof

namespace Sys2Proof.Laws.EncodesItsRow

/-- A well-formed instruction is encoded by at least one word, and the first has the key bits of the instruction's
row of the opcode table. -/
def Statement (i : Instr) : Prop :=
  i.wellFormed = true → ∃ w ws, encode i = w :: ws ∧ w &&& i.tableMask = i.tableMatch

theorem add (rd rs rt : Reg) : Statement (.add rd rs rt) :=
  fun _ => ⟨_, _, rfl, (rWord_key ..).trans rfl⟩

theorem addu (rd rs rt : Reg) : Statement (.addu rd rs rt) :=
  fun _ => ⟨_, _, rfl, (rWord_key ..).trans rfl⟩

theorem sub (rd rs rt : Reg) : Statement (.sub rd rs rt) :=
  fun _ => ⟨_, _, rfl, (rWord_key ..).trans rfl⟩

theorem subu (rd rs rt : Reg) : Statement (.subu rd rs rt) :=
  fun _ => ⟨_, _, rfl, (rWord_key ..).trans rfl⟩

theorem and (rd rs rt : Reg) : Statement (.and rd rs rt) :=
  fun _ => ⟨_, _, rfl, (rWord_key ..).trans rfl⟩

theorem or (rd rs rt : Reg) : Statement (.or rd rs rt) :=
  fun _ => ⟨_, _, rfl, (rWord_key ..).trans rfl⟩

theorem xor (rd rs rt : Reg) : Statement (.xor rd rs rt) :=
  fun _ => ⟨_, _, rfl, (rWord_key ..).trans rfl⟩

theorem nor (rd rs rt : Reg) : Statement (.nor rd rs rt) :=
  fun _ => ⟨_, _, rfl, (rWord_key ..).trans rfl⟩

theorem slt (rd rs rt : Reg) : Statement (.slt rd rs rt) :=
  fun _ => ⟨_, _, rfl, (rWord_key ..).trans rfl⟩

theorem sltu (rd rs rt : Reg) : Statement (.sltu rd rs rt) :=
  fun _ => ⟨_, _, rfl, (rWord_key ..).trans rfl⟩

theorem sll (rd rt : Reg) (shamt : BitVec 5) : Statement (.sll rd rt shamt) :=
  fun _ => ⟨_, _, rfl, (rWord_key ..).trans rfl⟩

theorem srl (rd rt : Reg) (shamt : BitVec 5) : Statement (.srl rd rt shamt) :=
  fun _ => ⟨_, _, rfl, (rWord_key ..).trans rfl⟩

theorem sra (rd rt : Reg) (shamt : BitVec 5) : Statement (.sra rd rt shamt) :=
  fun _ => ⟨_, _, rfl, (rWord_key ..).trans rfl⟩

theorem sllv (rd rt rs : Reg) : Statement (.sllv rd rt rs) :=
  fun _ => ⟨_, _, rfl, (rWord_key ..).trans rfl⟩

theorem srlv (rd rt rs : Reg) : Statement (.srlv rd rt rs) :=
  fun _ => ⟨_, _, rfl, (rWord_key ..).trans rfl⟩

theorem srav (rd rt rs : Reg) : Statement (.srav rd rt rs) :=
  fun _ => ⟨_, _, rfl, (rWord_key ..).trans rfl⟩

theorem addi (rt rs : Reg) (imm : Half) : Statement (.addi rt rs imm) :=
  fun _ => ⟨_, _, rfl, (iWord_key ..).trans rfl⟩

theorem addiu (rt rs : Reg) (imm : Half) : Statement (.addiu rt rs imm) :=
  fun _ => ⟨_, _, rfl, (iWord_key ..).trans rfl⟩

theorem slti (rt rs : Reg) (imm : Half) : Statement (.slti rt rs imm) :=
  fun _ => ⟨_, _, rfl, (iWord_key ..).trans rfl⟩

theorem sltiu (rt rs : Reg) (imm : Half) : Statement (.sltiu rt rs imm) :=
  fun _ => ⟨_, _, rfl, (iWord_key ..).trans rfl⟩

theorem andi (rt rs : Reg) (imm : Half) : Statement (.andi rt rs imm) :=
  fun _ => ⟨_, _, rfl, (iWord_key ..).trans rfl⟩

theorem ori (rt rs : Reg) (imm : Half) : Statement (.ori rt rs imm) :=
  fun _ => ⟨_, _, rfl, (iWord_key ..).trans rfl⟩

theorem xori (rt rs : Reg) (imm : Half) : Statement (.xori rt rs imm) :=
  fun _ => ⟨_, _, rfl, (iWord_key ..).trans rfl⟩

theorem lui (rt : Reg) (imm : Half) : Statement (.lui rt imm) :=
  fun _ => ⟨_, _, rfl, (iWord_key ..).trans rfl⟩

theorem mult (rs rt : Reg) : Statement (.mult rs rt) :=
  fun _ => ⟨_, _, rfl, (rWord_key ..).trans rfl⟩

theorem multu (rs rt : Reg) : Statement (.multu rs rt) :=
  fun _ => ⟨_, _, rfl, (rWord_key ..).trans rfl⟩

theorem div (rs rt : Reg) : Statement (.div rs rt) :=
  fun _ => ⟨_, _, rfl, (rWord_key ..).trans rfl⟩

theorem divu (rs rt : Reg) : Statement (.divu rs rt) :=
  fun _ => ⟨_, _, rfl, (rWord_key ..).trans rfl⟩

theorem mfhi (rd : Reg) : Statement (.mfhi rd) :=
  fun _ => ⟨_, _, rfl, (rWord_key ..).trans rfl⟩

theorem mthi (rs : Reg) : Statement (.mthi rs) :=
  fun _ => ⟨_, _, rfl, (rWord_key ..).trans rfl⟩

theorem mflo (rd : Reg) : Statement (.mflo rd) :=
  fun _ => ⟨_, _, rfl, (rWord_key ..).trans rfl⟩

theorem mtlo (rs : Reg) : Statement (.mtlo rs) :=
  fun _ => ⟨_, _, rfl, (rWord_key ..).trans rfl⟩

theorem j (target : BitVec 26) : Statement (.j target) :=
  fun _ => ⟨_, _, rfl, (jWord_key ..).trans rfl⟩

theorem jal (target : BitVec 26) : Statement (.jal target) :=
  fun _ => ⟨_, _, rfl, (jWord_key ..).trans rfl⟩

theorem jr (rs : Reg) : Statement (.jr rs) :=
  fun _ => ⟨_, _, rfl, (rWord_key ..).trans rfl⟩

theorem jalr (rd rs : Reg) : Statement (.jalr rd rs) :=
  fun _ => ⟨_, _, rfl, (rWord_key ..).trans rfl⟩

theorem beq (rs rt : Reg) (offset : Half) : Statement (.beq rs rt offset) :=
  fun _ => ⟨_, _, rfl, (iWord_key ..).trans rfl⟩

theorem bne (rs rt : Reg) (offset : Half) : Statement (.bne rs rt offset) :=
  fun _ => ⟨_, _, rfl, (iWord_key ..).trans rfl⟩

theorem blez (rs : Reg) (offset : Half) : Statement (.blez rs offset) :=
  fun _ => ⟨_, _, rfl, (iWord_key ..).trans rfl⟩

theorem bgtz (rs : Reg) (offset : Half) : Statement (.bgtz rs offset) :=
  fun _ => ⟨_, _, rfl, (iWord_key ..).trans rfl⟩

theorem bltz (rs : Reg) (offset : Half) : Statement (.bltz rs offset) :=
  fun _ => ⟨_, _, rfl, (iWord_regimm_key ..).trans rfl⟩

theorem bgez (rs : Reg) (offset : Half) : Statement (.bgez rs offset) :=
  fun _ => ⟨_, _, rfl, (iWord_regimm_key ..).trans rfl⟩

theorem bltzal (rs : Reg) (offset : Half) : Statement (.bltzal rs offset) :=
  fun _ => ⟨_, _, rfl, (iWord_regimm_key ..).trans rfl⟩

theorem bgezal (rs : Reg) (offset : Half) : Statement (.bgezal rs offset) :=
  fun _ => ⟨_, _, rfl, (iWord_regimm_key ..).trans rfl⟩

theorem lb (rt rs : Reg) (imm : Half) : Statement (.lb rt rs imm) :=
  fun _ => ⟨_, _, rfl, (iWord_key ..).trans rfl⟩

theorem lbu (rt rs : Reg) (imm : Half) : Statement (.lbu rt rs imm) :=
  fun _ => ⟨_, _, rfl, (iWord_key ..).trans rfl⟩

theorem lh (rt rs : Reg) (imm : Half) : Statement (.lh rt rs imm) :=
  fun _ => ⟨_, _, rfl, (iWord_key ..).trans rfl⟩

theorem lhu (rt rs : Reg) (imm : Half) : Statement (.lhu rt rs imm) :=
  fun _ => ⟨_, _, rfl, (iWord_key ..).trans rfl⟩

theorem lw (rt rs : Reg) (imm : Half) : Statement (.lw rt rs imm) :=
  fun _ => ⟨_, _, rfl, (iWord_key ..).trans rfl⟩

theorem sb (rt rs : Reg) (imm : Half) : Statement (.sb rt rs imm) :=
  fun _ => ⟨_, _, rfl, (iWord_key ..).trans rfl⟩

theorem sh (rt rs : Reg) (imm : Half) : Statement (.sh rt rs imm) :=
  fun _ => ⟨_, _, rfl, (iWord_key ..).trans rfl⟩

theorem sw (rt rs : Reg) (imm : Half) : Statement (.sw rt rs imm) :=
  fun _ => ⟨_, _, rfl, (iWord_key ..).trans rfl⟩

theorem lwl (rt rs : Reg) (imm : Half) : Statement (.lwl rt rs imm) :=
  fun _ => ⟨_, _, rfl, (iWord_key ..).trans rfl⟩

theorem lwr (rt rs : Reg) (imm : Half) : Statement (.lwr rt rs imm) :=
  fun _ => ⟨_, _, rfl, (iWord_key ..).trans rfl⟩

theorem swl (rt rs : Reg) (imm : Half) : Statement (.swl rt rs imm) :=
  fun _ => ⟨_, _, rfl, (iWord_key ..).trans rfl⟩

theorem swr (rt rs : Reg) (imm : Half) : Statement (.swr rt rs imm) :=
  fun _ => ⟨_, _, rfl, (iWord_key ..).trans rfl⟩

theorem syscall : Statement .syscall :=
  fun _ => ⟨_, _, rfl, by decide⟩

theorem brk : Statement .brk :=
  fun _ => ⟨_, _, rfl, by decide⟩

theorem mfc0 (rt rd : Reg) : Statement (.mfc0 rt rd) :=
  fun _ => ⟨_, _, rfl, (rWord_cop_key ..).trans rfl⟩

theorem mtc0 (rt rd : Reg) : Statement (.mtc0 rt rd) :=
  fun _ => ⟨_, _, rfl, (rWord_cop_key ..).trans rfl⟩

theorem rfe : Statement .rfe :=
  fun _ => ⟨_, _, rfl, by decide⟩

theorem gp0Nop : Statement .gp0Nop :=
  fun _ => ⟨_, _, rfl, by decide⟩

theorem gp0CacheFlushStub : Statement .gp0CacheFlushStub :=
  fun _ => ⟨_, _, rfl, by decide⟩

theorem gp0Interrupt : Statement .gp0Interrupt :=
  fun _ => ⟨_, _, rfl, by decide⟩

theorem gp0MonoQuad (colour : BitVec 24) (v0 v1 v2 v3 : Word) : Statement (.gp0MonoQuad colour v0 v1 v2 v3) :=
  fun _ => ⟨_, _, rfl, (gpuWord_key ..).trans rfl⟩

theorem gp0ShadedTriangle (c0 : BitVec 24) (v0 c1 v1 c2 v2 : Word) : Statement (.gp0ShadedTriangle c0 v0 c1 v1 c2 v2) :=
  fun _ => ⟨_, _, rfl, (gpuWord_key ..).trans rfl⟩

theorem gp0ShadedQuad (c0 : BitVec 24) (v0 c1 v1 c2 v2 c3 v3 : Word) : Statement (.gp0ShadedQuad c0 v0 c1 v1 c2 v2 c3 v3) :=
  fun _ => ⟨_, _, rfl, (gpuWord_key ..).trans rfl⟩

theorem gp0ImageLoad (low : BitVec 24) (dest size : Word) : Statement (.gp0ImageLoad low dest size) :=
  fun _ => ⟨_, _, rfl, (gpuWord_key ..).trans rfl⟩

theorem gp0DrawMode (status : BitVec 11) (textureDisable flipX flipY : Bool) : Statement (.gp0DrawMode status textureDisable flipX flipY) :=
  fun _ => ⟨_, _, rfl, (gpuWord_key ..).trans rfl⟩

theorem gp0TextureWindow (maskX maskY offX offY : BitVec 5) : Statement (.gp0TextureWindow maskX maskY offX offY) :=
  fun _ => ⟨_, _, rfl, (gpuWord_key ..).trans rfl⟩

theorem gp0DrawAreaTopLeft (left top : BitVec 10) : Statement (.gp0DrawAreaTopLeft left top) :=
  fun _ => ⟨_, _, rfl, (gpuWord_key ..).trans rfl⟩

theorem gp0DrawAreaBottomRight (right bottom : BitVec 10) : Statement (.gp0DrawAreaBottomRight right bottom) :=
  fun _ => ⟨_, _, rfl, (gpuWord_key ..).trans rfl⟩

theorem gp0DrawOffset (x y : Int) : Statement (.gp0DrawOffset x y) :=
  fun _ => ⟨_, _, rfl, (gpuWord_key ..).trans rfl⟩

theorem gp0MaskBits (setMask checkMask : Bool) : Statement (.gp0MaskBits setMask checkMask) :=
  fun _ => ⟨_, _, rfl, (gpuWord_key ..).trans rfl⟩

theorem gp1SoftReset : Statement .gp1SoftReset :=
  fun _ => ⟨_, _, rfl, by decide⟩

theorem gp1InterruptAcknowledge : Statement .gp1InterruptAcknowledge :=
  fun _ => ⟨_, _, rfl, by decide⟩

theorem gp1DisplayEnable (off : Bool) : Statement (.gp1DisplayEnable off) :=
  fun _ => ⟨_, _, rfl, (gpuWord_gp1_key ..).trans rfl⟩

theorem gp1DmaDirection (direction : BitVec 2) : Statement (.gp1DmaDirection direction) :=
  fun _ => ⟨_, _, rfl, (gpuWord_gp1_key ..).trans rfl⟩

theorem gp1DisplayOrigin (x : BitVec 10) (y : BitVec 9) : Statement (.gp1DisplayOrigin x y) :=
  fun _ => ⟨_, _, rfl, (gpuWord_gp1_key ..).trans rfl⟩

theorem gp1HorizontalRange (start stop : BitVec 12) : Statement (.gp1HorizontalRange start stop) :=
  fun _ => ⟨_, _, rfl, (gpuWord_gp1_key ..).trans rfl⟩

theorem gp1VerticalRange (start stop : BitVec 10) : Statement (.gp1VerticalRange start stop) :=
  fun _ => ⟨_, _, rfl, (gpuWord_gp1_key ..).trans rfl⟩

theorem gp1DisplayMode (hres1 : BitVec 2) (vres pal depth24 interlace hres2 reverse : Bool) : Statement (.gp1DisplayMode hres1 vres pal depth24 interlace hres2 reverse) :=
  fun _ => ⟨_, _, rfl, (gpuWord_gp1_key ..).trans rfl⟩

end Sys2Proof.Laws.EncodesItsRow
end

