-- ==== Sys2Proof/Tests/Slice0.lean ====
section
/-!
SUPPORT. Tests.  Expected results come from `95_test_vectors.md` (the section is named at each group), from the
worked encodings of `30_encoding.md` R136, or are words written out bit by bit from the rule named.  Each step test
is one step of a small machine.  The witnesses at the end meet the hypotheses of each obligation that has any.
-/

namespace Sys2Proof.Tests

open Sys2Proof.Machine

-- One theorem at a time: many kernel evaluations that wait for one another take a thread and its stack each.
set_option Elab.async false

/-! ## Helpers -/

/-- The start of `95_test_vectors.md`, "Conventions": the word at 0x80001000, some registers set. -/
def machine (w : Word) (regs : List (Reg × Word)) : State :=
  regs.foldl (fun s p => s.setReg p.1 p.2)
    { State.reset with currentPc := 0x80001000, nextPc := 0x80001004, ram := Memory.writeLE [] 0x1000 .word w }

/-- A machine in a delay slot. -/
def inSlot (s : State) : State := { s with inDelaySlot := true }

/-- A projection of the next state. -/
def after {α : Type} (r : Result) (f : State → α) : Option α :=
  match r with
  | .next s => some (f s)
  | _ => none

/-- The reason of a Fatal stop. -/
def stopOf (r : Result) : Option FatalReason :=
  match r with
  | .fault (.fatal reason _) => some reason
  | _ => none

/-- A projection of the state a Fatal stop leaves. -/
def atStop {α : Type} (r : Result) (f : State → α) : Option α :=
  match r with
  | .fault (.fatal _ s) => some (f s)
  | _ => none

/-- Whether an operation has a next state. -/
def isNext : Result → Bool
  | .next _ => true
  | _ => false

theorem exists_next {r : Result} (h : isNext r = true) : ∃ t, r = .next t := by
  cases r <;> first | exact ⟨_, rfl⟩ | cases h

/-! ## WellFormed: an ill-formed term for its check, refused (R365) -/

theorem test_wf_x_too_large : (Instr.gp0DrawOffset 1024 0).wellFormed = false := by decide
theorem test_wf_x_too_small : (Instr.gp0DrawOffset (-1025) 0).wellFormed = false := by decide
theorem test_wf_y_too_large : (Instr.gp0DrawOffset 0 1024).wellFormed = false := by decide
theorem test_wf_y_too_small : (Instr.gp0DrawOffset 0 (-1025)).wellFormed = false := by decide
theorem test_wf_bounds : (Instr.gp0DrawOffset (-1024) 1023).wellFormed = true := by decide

/-! ## Decoding: every constructor from a word written out from the maps R127 to R130, R352 to R374, R390 to R399 -/

theorem test_decode_register_alu :
    decodeCpu 0b000000_00001_00010_00011_00000_100000 = .ok (.add 3 1 2)
    ∧ decodeCpu 0b000000_00001_00010_00011_00000_100001 = .ok (.addu 3 1 2)
    ∧ decodeCpu 0b000000_00001_00010_00011_00000_100010 = .ok (.sub 3 1 2)
    ∧ decodeCpu 0b000000_00001_00010_00011_00000_100011 = .ok (.subu 3 1 2)
    ∧ decodeCpu 0b000000_00001_00010_00011_00000_100100 = .ok (.and 3 1 2)
    ∧ decodeCpu 0b000000_00001_00010_00011_00000_100101 = .ok (.or 3 1 2)
    ∧ decodeCpu 0b000000_00001_00010_00011_00000_100110 = .ok (.xor 3 1 2)
    ∧ decodeCpu 0b000000_00001_00010_00011_00000_100111 = .ok (.nor 3 1 2)
    ∧ decodeCpu 0b000000_00001_00010_00011_00000_101010 = .ok (.slt 3 1 2)
    ∧ decodeCpu 0b000000_00001_00010_00011_00000_101011 = .ok (.sltu 3 1 2) := by decide

theorem test_decode_shifts :
    decodeCpu 0b000000_00000_00010_00011_10001_000000 = .ok (.sll 3 2 17)
    ∧ decodeCpu 0b000000_00000_00010_00011_10001_000010 = .ok (.srl 3 2 17)
    ∧ decodeCpu 0b000000_00000_00010_00011_10001_000011 = .ok (.sra 3 2 17)
    ∧ decodeCpu 0b000000_00001_00010_00011_00000_000100 = .ok (.sllv 3 2 1)
    ∧ decodeCpu 0b000000_00001_00010_00011_00000_000110 = .ok (.srlv 3 2 1)
    ∧ decodeCpu 0b000000_00001_00010_00011_00000_000111 = .ok (.srav 3 2 1) := by decide

theorem test_decode_immediates :
    decodeCpu 0b001000_00001_00010_1000000000000011 = .ok (.addi 2 1 0x8003)
    ∧ decodeCpu 0b001001_00001_00010_1000000000000011 = .ok (.addiu 2 1 0x8003)
    ∧ decodeCpu 0b001010_00001_00010_1000000000000011 = .ok (.slti 2 1 0x8003)
    ∧ decodeCpu 0b001011_00001_00010_1000000000000011 = .ok (.sltiu 2 1 0x8003)
    ∧ decodeCpu 0b001100_00001_00010_1000000000000011 = .ok (.andi 2 1 0x8003)
    ∧ decodeCpu 0b001101_00001_00010_1000000000000011 = .ok (.ori 2 1 0x8003)
    ∧ decodeCpu 0b001110_00001_00010_1000000000000011 = .ok (.xori 2 1 0x8003)
    ∧ decodeCpu 0b001111_00000_00010_1000000000000011 = .ok (.lui 2 0x8003) := by decide

theorem test_decode_muldiv :
    decodeCpu 0b000000_00001_00010_00000_00000_011000 = .ok (.mult 1 2)
    ∧ decodeCpu 0b000000_00001_00010_00000_00000_011001 = .ok (.multu 1 2)
    ∧ decodeCpu 0b000000_00001_00010_00000_00000_011010 = .ok (.div 1 2)
    ∧ decodeCpu 0b000000_00001_00010_00000_00000_011011 = .ok (.divu 1 2)
    ∧ decodeCpu 0b000000_00000_00000_00011_00000_010000 = .ok (.mfhi 3)
    ∧ decodeCpu 0b000000_00001_00000_00000_00000_010001 = .ok (.mthi 1)
    ∧ decodeCpu 0b000000_00000_00000_00011_00000_010010 = .ok (.mflo 3)
    ∧ decodeCpu 0b000000_00001_00000_00000_00000_010011 = .ok (.mtlo 1) := by decide

theorem test_decode_transfers :
    decodeCpu 0b000010_10000000000000000000000001 = .ok (.j 0x2000001)
    ∧ decodeCpu 0b000011_10000000000000000000000001 = .ok (.jal 0x2000001)
    ∧ decodeCpu 0b000000_00001_00000_00000_00000_001000 = .ok (.jr 1)
    ∧ decodeCpu 0b000000_00001_00000_00011_00000_001001 = .ok (.jalr 3 1)
    ∧ decodeCpu 0b000100_00001_00010_1000000000000011 = .ok (.beq 1 2 0x8003)
    ∧ decodeCpu 0b000101_00001_00010_1000000000000011 = .ok (.bne 1 2 0x8003)
    ∧ decodeCpu 0b000110_00001_00000_1000000000000011 = .ok (.blez 1 0x8003)
    ∧ decodeCpu 0b000111_00001_00000_1000000000000011 = .ok (.bgtz 1 0x8003)
    ∧ decodeCpu 0b000001_00001_00000_1000000000000011 = .ok (.bltz 1 0x8003)
    ∧ decodeCpu 0b000001_00001_00001_1000000000000011 = .ok (.bgez 1 0x8003)
    ∧ decodeCpu 0b000001_00001_10000_1000000000000011 = .ok (.bltzal 1 0x8003)
    ∧ decodeCpu 0b000001_00001_10001_1000000000000011 = .ok (.bgezal 1 0x8003) := by decide

theorem test_decode_accesses :
    decodeCpu 0b100000_00001_00010_1000000000000011 = .ok (.lb 2 1 0x8003)
    ∧ decodeCpu 0b100100_00001_00010_1000000000000011 = .ok (.lbu 2 1 0x8003)
    ∧ decodeCpu 0b100001_00001_00010_1000000000000011 = .ok (.lh 2 1 0x8003)
    ∧ decodeCpu 0b100101_00001_00010_1000000000000011 = .ok (.lhu 2 1 0x8003)
    ∧ decodeCpu 0b100011_00001_00010_1000000000000011 = .ok (.lw 2 1 0x8003)
    ∧ decodeCpu 0b101000_00001_00010_1000000000000011 = .ok (.sb 2 1 0x8003)
    ∧ decodeCpu 0b101001_00001_00010_1000000000000011 = .ok (.sh 2 1 0x8003)
    ∧ decodeCpu 0b101011_00001_00010_1000000000000011 = .ok (.sw 2 1 0x8003)
    ∧ decodeCpu 0b100010_00001_00010_1000000000000011 = .ok (.lwl 2 1 0x8003)
    ∧ decodeCpu 0b100110_00001_00010_1000000000000011 = .ok (.lwr 2 1 0x8003)
    ∧ decodeCpu 0b101010_00001_00010_1000000000000011 = .ok (.swl 2 1 0x8003)
    ∧ decodeCpu 0b101110_00001_00010_1000000000000011 = .ok (.swr 2 1 0x8003) := by decide

theorem test_decode_system :
    decodeCpu 0b000000_00000_00000_00000_00000_001100 = .ok .syscall
    ∧ decodeCpu 0b000000_00000_00000_00000_00000_001101 = .ok .brk
    ∧ decodeCpu 0b010000_00000_00010_01100_00000_000000 = .ok (.mfc0 2 12)
    ∧ decodeCpu 0b010000_00100_00010_01110_00000_000000 = .ok (.mtc0 2 14)
    ∧ decodeCpu 0b010000_10000_00000_00000_00000_010000 = .ok .rfe := by decide

theorem test_decode_gp0 :
    decode .gp0 [0x00000000] = .ok (.gp0Nop, [])
    ∧ decode .gp0 [0x01000000] = .ok (.gp0CacheFlushStub, [])
    ∧ decode .gp0 [0x1F000000] = .ok (.gp0Interrupt, [])
    ∧ decode .gp0 [0x28123456, 1, 2, 3, 4, 5] = .ok (.gp0MonoQuad 0x123456 1 2 3 4, [5])
    ∧ decode .gp0 [0x30123456, 1, 2, 3, 4, 5] = .ok (.gp0ShadedTriangle 0x123456 1 2 3 4 5, [])
    ∧ decode .gp0 [0x38123456, 1, 2, 3, 4, 5, 6, 7] = .ok (.gp0ShadedQuad 0x123456 1 2 3 4 5 6 7, [])
    ∧ decode .gp0 [0xA0000000, 0x00020001, 0x00040003] = .ok (.gp0ImageLoad 0 0x00020001 0x00040003, [])
    ∧ decode .gp0 [0b11100001_0000000000_1_0_1_10000000011] = .ok (.gp0DrawMode 0x403 true false true, [])
    ∧ decode .gp0 [0b11100010_0000_00100_00011_00010_00001] = .ok (.gp0TextureWindow 1 2 3 4, [])
    ∧ decode .gp0 [0b11100011_0000_1000000001_1000000010] = .ok (.gp0DrawAreaTopLeft 0x202 0x201, [])
    ∧ decode .gp0 [0b11100100_0000_1000000001_1000000010] = .ok (.gp0DrawAreaBottomRight 0x202 0x201, [])
    ∧ decode .gp0 [0b11100101_00_10000000000_01111111111] = .ok (.gp0DrawOffset 1023 (-1024), [])
    ∧ decode .gp0 [0b11100110_0000000000000000000000_1_0] = .ok (.gp0MaskBits false true, []) :=
  ⟨rfl, rfl, rfl, rfl, rfl, rfl, rfl, rfl, rfl, rfl, rfl, rfl, rfl⟩

theorem test_decode_gp1 :
    decode .gp1 [0x00000000] = .ok (.gp1SoftReset, [])
    ∧ decode .gp1 [0x02000000] = .ok (.gp1InterruptAcknowledge, [])
    ∧ decode .gp1 [0x03000001] = .ok (.gp1DisplayEnable true, [])
    ∧ decode .gp1 [0x04000002] = .ok (.gp1DmaDirection 2, [])
    ∧ decode .gp1 [0b00000101_00000_100000001_1000000010] = .ok (.gp1DisplayOrigin 0x202 0x101, [])
    ∧ decode .gp1 [0b00000110_100000000001_100000000010] = .ok (.gp1HorizontalRange 0x802 0x801, [])
    ∧ decode .gp1 [0b00000111_0000_1000000001_1000000010] = .ok (.gp1VerticalRange 0x202 0x201, [])
    ∧ decode .gp1 [0b00001000_0000000000000000_1_0_1_0_1_0_10] = .ok (.gp1DisplayMode 2 false true false true false true, [])
    ∧ decode .gp1 [0xC3000001] = .ok (.gp1DisplayEnable true, []) :=
  ⟨rfl, rfl, rfl, rfl, rfl, rfl, rfl, rfl, rfl⟩

/-- R133: the decoder rejects by name (`95_test_vectors.md` 2.1). -/
theorem test_decode_rejects :
    decodeCpu 0x0000000F = .error (.unknownInstruction 0x0000000F)
    ∧ decodeCpu 0x00000001 = .error (.unknownInstruction 0x00000001)
    ∧ decodeCpu 0x00000005 = .error (.unknownInstruction 0x00000005)
    ∧ decodeCpu 0x0000003F = .error (.unknownInstruction 0x0000003F)
    ∧ decodeCpu 0x04820003 = .error (.unknownInstruction 0x04820003)
    ∧ decodeCpu 0x04920003 = .error (.unknownInstruction 0x04920003)
    ∧ decodeCpu 0x50000000 = .error (.unknownInstruction 0x50000000)
    ∧ decodeCpu 0x9C000000 = .error (.unknownInstruction 0x9C000000)
    ∧ decodeCpu 0xFFFFFFFF = .error (.unknownInstruction 0xFFFFFFFF)
    ∧ decodeCpu 0x40480000 = .error (.unknownInstruction 0x40480000)
    ∧ decodeCpu 0x41000000 = .error (.unknownInstruction 0x41000000)
    ∧ decodeCpu 0x42000001 = .error (.unknownInstruction 0x42000001)
    ∧ decodeCpu 0x44000000 = .error (.unknownInstruction 0x44000000)
    ∧ decodeCpu 0x48000000 = .error (.unknownInstruction 0x48000000)
    ∧ decodeCpu 0xC8000000 = .error (.unknownInstruction 0xC8000000)
    ∧ decodeCpu 0xE8000000 = .error (.unknownInstruction 0xE8000000) := by decide

/-- R132: ignored fields are ignored (`95_test_vectors.md` 2.1). -/
theorem test_decode_ignored_fields :
    decodeCpu 0x03E00000 = .ok (.sll 0 0 0)
    ∧ decodeCpu 0x0109F808 = .ok (.jr 8)
    ∧ decodeCpu 0x400867FF = .ok (.mfc0 8 12)
    ∧ decodeCpu 0x0085FFD8 = .ok (.mult 4 5)
    ∧ decodeCpu 0x3FE21234 = .ok (.lui 2 0x1234)
    ∧ decodeCpu 0x03FFFFCC = .ok .syscall := by decide

/-- R120: four bytes, the lowest address first. -/
theorem test_decode_bytes : decodeBytes [0x20, 0x10, 0x85, 0x00, 0xFF] = .ok (.add 2 4 5, [0xFF]) := by decide

theorem test_table_word :
    decodeTableWord 32 0x00851020 = some (.add 2 4 5)
    ∧ decodeTableWord 32 0xE1000005 = some (.gp0DrawMode 5 false false false)
    ∧ decodeTableWord 32 0xC0000000 = some .gp1SoftReset := by decide

/-- Several words are a GP0 command, and one step hands all of them to the port (R367: five words for 0x28). -/
theorem test_table_command :
    decodeTableWord 160 (0x28123456 + 0x00010002 * 2 ^ 128) = some (.gp0MonoQuad 0x123456 0 0 0 0x00010002)
    ∧ after (step (State.reset.withFetchWord 160 (0x28123456 + 0x00010002 * 2 ^ 128)))
        (fun t => (t.gpu.mode, t.gpu.out)) =
      some (.idle,
        [.triangle ⟨0, 0, 0x123456⟩ ⟨0, 0, 0x123456⟩ ⟨0, 0, 0x123456⟩,
          .triangle ⟨0, 0, 0x123456⟩ ⟨0, 0, 0x123456⟩ ⟨2, 1, 0x123456⟩]) := by decide

/-! ## Register ALU (`95_test_vectors.md` 2.2) -/

theorem test_add_wraps_to_zero :
    after (step (machine 0x00851020 [(4, 0xFFFFFFFF), (5, 0x1)])) (·.reg 2) = some 0 := by decide
theorem test_add_traps_after_write :
    after (step (machine 0x00851020 [(4, 0x7FFFFFFF), (5, 1)]))
      (fun t => (t.reg 2, t.cause, t.epc, t.currentPc)) = some (0x80000000, 0x30, 0x80001000, 0x80000080) := by decide
theorem test_addu_does_not_trap :
    after (step (machine 0x00851021 [(4, 0x7FFFFFFF), (5, 0x1)])) (fun t => (t.reg 2, t.cause)) = some (0x80000000, 0) := by decide
theorem test_sub_traps :
    after (step (machine 0x00851022 [(4, 0), (5, 0x80000000)])) (fun t => (t.reg 2, t.cause)) = some (0x80000000, 0x30) := by decide
theorem test_sub_borrows :
    after (step (machine 0x00851022 [(4, 0x5), (5, 0x7)])) (·.reg 2) = some 0xFFFFFFFE := by decide
theorem test_subu :
    after (step (machine 0x00851023 [(4, 0x80000000), (5, 0x1)])) (fun t => (t.reg 2, t.cause)) = some (0x7FFFFFFF, 0) := by decide
theorem test_and :
    after (step (machine 0x00851024 [(4, 0xFF00FF00), (5, 0xFF00FF0)])) (·.reg 2) = some 0x0F000F00 := by decide
theorem test_or :
    after (step (machine 0x00851025 [(4, 0xFF00FF00), (5, 0xFF00FF0)])) (·.reg 2) = some 0xFFF0FFF0 := by decide
theorem test_xor :
    after (step (machine 0x00851026 [(4, 0xFF00FF00), (5, 0xFF00FF0)])) (·.reg 2) = some 0xF0F0F0F0 := by decide
theorem test_nor :
    after (step (machine 0x00851027 [(4, 0xFF00FF00), (5, 0xFF00FF0)])) (·.reg 2) = some 0x000F000F := by decide
theorem test_slt_signed :
    after (step (machine 0x0085102A [(4, 0x80000000), (5, 0x7FFFFFFF)])) (·.reg 2) = some 1 := by decide
theorem test_sltu_unsigned :
    after (step (machine 0x0085102B [(4, 0x80000000), (5, 0x7FFFFFFF)])) (·.reg 2) = some 0 := by decide

/-! ## Shifts (`95_test_vectors.md` 2.3) -/

theorem test_sll : after (step (machine 0x000947C0 [(9, 0x1)])) (·.reg 8) = some 0x80000000 := by decide
theorem test_srl : after (step (machine 0x000947C2 [(9, 0x80000000)])) (·.reg 8) = some 1 := by decide
theorem test_sra : after (step (machine 0x00094103 [(9, 0x80000000)])) (·.reg 8) = some 0xF8000000 := by decide
theorem test_sllv_count_mod_32 :
    after (step (machine 0x01494004 [(9, 0x1), (10, 0x21)])) (·.reg 8) = some 2 := by decide
theorem test_srlv_count_mod_32 :
    after (step (machine 0x01494006 [(9, 0x80000000), (10, 0x3F)])) (·.reg 8) = some 1 := by decide
theorem test_srav_count_mod_32 :
    after (step (machine 0x01494007 [(9, 0x80000000), (10, 0x23)])) (·.reg 8) = some 0xF0000000 := by decide

/-! ## Immediates (`95_test_vectors.md` 2.4) -/

theorem test_addi_sign_extends : after (step (machine 0x20828000 [(4, 0x0)])) (·.reg 2) = some 0xFFFF8000 := by decide
theorem test_addi_traps :
    after (step (machine 0x2082FFFF [(4, 0x80000000)])) (fun t => (t.reg 2, t.cause)) = some (0x7FFFFFFF, 0x30) := by decide
theorem test_addiu_sign_extends :
    after (step (machine 0x2482FFFF [(4, 0x0)])) (·.reg 2) = some 0xFFFFFFFF := by decide
theorem test_slti : after (step (machine 0x28828000 [(4, 0x80000000)])) (·.reg 2) = some 1 := by decide
theorem test_sltiu_sign_extends : after (step (machine 0x2C82FFFF [(4, 0x0)])) (·.reg 2) = some 1 := by decide
theorem test_andi_zero_extends :
    after (step (machine 0x30828000 [(4, 0xFFFFFFFF)])) (·.reg 2) = some 0x8000 := by decide
theorem test_ori_zero_extends :
    after (step (machine 0x34828001 [(4, 0xFFFF0000)])) (·.reg 2) = some 0xFFFF8001 := by decide
theorem test_xori_zero_extends :
    after (step (machine 0x3882FFFF [(4, 0xFFFFFFFF)])) (·.reg 2) = some 0xFFFF0000 := by decide
theorem test_lui : after (step (machine 0x3C028000 [])) (·.reg 2) = some 0x80000000 := by decide

/-! ## Multiply, divide, hi and lo (S2 and `95_test_vectors.md` 2.5) -/

theorem test_mult_negative :
    after (step (machine 0x00850018 [(4, 0xFFFFFFFE), (5, 0x3)])) (fun t => (t.hi, t.lo)) = some (0xFFFFFFFF, 0xFFFFFFFA) := by decide
theorem test_multu :
    after (step (machine 0x00850019 [(4, 0xFFFFFFFE), (5, 0x3)])) (fun t => (t.hi, t.lo)) = some (2, 0xFFFFFFFA) := by decide
theorem test_div_truncates :
    after (step (machine 0x0085001A [(4, 0xFFFFFFF9), (5, 0x2)])) (fun t => (t.hi, t.lo)) = some (0xFFFFFFFF, 0xFFFFFFFD) := by decide
theorem test_div_by_zero :
    after (step (machine 0x0085001A [(4, 0xFFFFFFFB)])) (fun t => (t.hi, t.lo)) = some (0xFFFFFFFB, 1) := by decide
theorem test_divu :
    after (step (machine 0x0085001B [(4, 0xFFFFFFF9), (5, 0x2)])) (fun t => (t.hi, t.lo)) = some (1, 0x7FFFFFFC) := by decide
theorem test_divu_by_zero :
    after (step (machine 0x0085001B [(4, 0x5)])) (fun t => (t.hi, t.lo)) = some (5, 0xFFFFFFFF) := by decide
theorem test_mfhi :
    after (step { machine 0x00001010 [(4, 0xAAAA)] with hi := 0x1234, lo := 0x5678 }) (·.reg 2) = some 0x1234 := by decide
theorem test_mflo :
    after (step { machine 0x00001012 [(4, 0xAAAA)] with hi := 0x1234, lo := 0x5678 }) (·.reg 2) = some 0x5678 := by decide
theorem test_mthi :
    after (step { machine 0x00800011 [(4, 0xAAAA)] with hi := 1, lo := 2 }) (fun t => (t.hi, t.lo)) = some (0xAAAA, 2) := by decide
theorem test_mtlo :
    after (step { machine 0x00800013 [(4, 0xAAAA)] with hi := 1, lo := 2 }) (fun t => (t.hi, t.lo)) = some (1, 0xAAAA) := by decide

/-! ## Jumps and branches (S4 and `95_test_vectors.md` 2.6) -/

theorem test_j :
    after (step (machine 0x08000800 [])) (fun t => (t.currentPc, t.nextPc, t.inDelaySlot)) = some (0x80001004, 0x80002000, true) := by decide
theorem test_jal :
    after (step (machine 0x0C000800 [])) (fun t => (t.nextPc, t.reg 31)) = some (0x80002000, 0x80001008) := by decide
theorem test_jr : after (step (machine 0x01000008 [(8, 0x80003001)])) (·.nextPc) = some 0x80003001 := by decide
theorem test_jalr_reads_before_link :
    after (step (machine 0x01004009 [(8, 0x80003000)])) (fun t => (t.nextPc, t.reg 8)) = some (0x80003000, 0x80001008) := by decide
theorem test_jalr_link_to_zero :
    after (step (machine 0x01000009 [(8, 0x80003000)])) (fun t => (t.nextPc, t.reg 0)) = some (0x80003000, 0) := by decide
theorem test_beq_backward : after (step (machine 0x10008000 [])) (·.nextPc) = some 0x7FFE1004 := by decide
theorem test_beq_not_taken :
    after (step (machine 0x11090003 [(8, 0x5), (9, 0x6)])) (fun t => (t.nextPc, t.inDelaySlot)) = some (0x80001008, true) := by decide
theorem test_bne : after (step (machine 0x1509FFFD [(8, 0x1), (9, 0x2)])) (·.nextPc) = some 0x80000FF8 := by decide
theorem test_blez_zero : after (step (machine 0x18800003 [(4, 0x0)])) (·.nextPc) = some 0x80001010 := by decide
theorem test_blez_positive : after (step (machine 0x18800003 [(4, 0x1)])) (·.nextPc) = some 0x80001008 := by decide
theorem test_bgtz_zero : after (step (machine 0x1C800003 [(4, 0x0)])) (·.nextPc) = some 0x80001008 := by decide
theorem test_bgtz_positive : after (step (machine 0x1C800003 [(4, 0x1)])) (·.nextPc) = some 0x80001010 := by decide
theorem test_bltz_negative :
    after (step (machine 0x04800003 [(4, 0x80000000)])) (·.nextPc) = some 0x80001010 := by decide
theorem test_bltz_zero : after (step (machine 0x04800003 [(4, 0x0)])) (·.nextPc) = some 0x80001008 := by decide
theorem test_bgez_negative :
    after (step (machine 0x04810003 [(4, 0x80000000)])) (·.nextPc) = some 0x80001008 := by decide
theorem test_bgez_zero : after (step (machine 0x04810003 [(4, 0x0)])) (·.nextPc) = some 0x80001010 := by decide
theorem test_bltzal_old_register :
    after (step (machine 0x07F00003 [(31, 0x80000000)])) (fun t => (t.nextPc, t.reg 31)) = some (0x80001010, 0x80001008) := by decide
theorem test_bltzal_links_untaken :
    after (step (machine 0x04900003 [(4, 0x5)])) (fun t => (t.nextPc, t.reg 31)) = some (0x80001008, 0x80001008) := by decide
theorem test_bgezal_old_register :
    after (step (machine 0x07F10003 [(31, 0x80000000)])) (fun t => (t.nextPc, t.reg 31)) = some (0x80001008, 0x80001008) := by decide
theorem test_bgezal_taken :
    after (step (machine 0x04910003 [(4, 0x0)])) (fun t => (t.nextPc, t.reg 31)) = some (0x80001010, 0x80001008) := by decide
theorem test_branch_in_slot_stops :
    stopOf (step (inSlot (machine 0x0C000800 []))) = some (.branchInDelaySlot 0x80001000)
    ∧ atStop (step (inSlot (machine 0x0C000800 []))) (·.reg 31) = some 0 := by decide

/-! ## Loads and stores (`95_test_vectors.md` 2.7, 2.8) -/

/-- The machine of 2.7: two words in main memory, x[8] their address. -/
def loading (w : Word) : State :=
  ((machine w [(8, 0x80002000), (9, 0xCAFEBABE)]).setRamWord 0x2000 0x8899AABB).setRamWord 0x2004 0x7F80FF01

theorem test_lb_sign_extends : after (step (loading 0x81090003)) (·.reg 9) = some 0xFFFFFF88 := by decide
theorem test_lbu_zero_extends : after (step (loading 0x91090003)) (·.reg 9) = some 0x88 := by decide
theorem test_lh_sign_extends : after (step (loading 0x85090002)) (·.reg 9) = some 0xFFFF8899 := by decide
theorem test_lhu_zero_extends : after (step (loading 0x95090002)) (·.reg 9) = some 0x8899 := by decide
theorem test_lw_little_endian : after (step (loading 0x8D090004)) (·.reg 9) = some 0x7F80FF01 := by decide
theorem test_lw_misaligned : stopOf (step (loading 0x8D090002)) = some (.misaligned 0x80002002 .word) := by decide
theorem test_lh_misaligned : stopOf (step (loading 0x85090001)) = some (.misaligned 0x80002001 .half) := by decide

/-- The machine of the stores of 2.7. -/
def storing (w : Word) : State := (machine w [(8, 0x80002000), (9, 0x11223344)]).setRamWord 0x2000 0xAABBCCDD

theorem test_sb_lane_two : after (step (storing 0xA1090002)) (·.ramWord 0x2000) = some 0xAA44CCDD := by decide
theorem test_sh_upper : after (step (storing 0xA5090002)) (·.ramWord 0x2000) = some 0x3344CCDD := by decide
theorem test_sw : after (step (storing 0xAD090000)) (·.ramWord 0x2000) = some 0x11223344 := by decide
theorem test_sw_isolated :
    after (step { storing 0xAD090000 with sr := 0x00010000 }) (·.ramWord 0x2000) = some 0xAABBCCDD := by decide

/-- The machine of 2.8. -/
def merging (w : Word) : State := (machine w [(8, 0x80002000), (9, 0xAABBCCDD)]).setRamWord 0x2000 0x44332211

theorem test_lwl_lane_0 : after (step (merging 0x89090000)) (·.reg 9) = some 0x11BBCCDD := by decide
theorem test_lwl_lane_2 : after (step (merging 0x89090002)) (·.reg 9) = some 0x332211DD := by decide
theorem test_lwr_lane_1 : after (step (merging 0x99090001)) (·.reg 9) = some 0xAA443322 := by decide
theorem test_lwr_lane_3 : after (step (merging 0x99090003)) (·.reg 9) = some 0xAABBCC44 := by decide
theorem test_swl_lane_0 : after (step (merging 0xA9090000)) (·.ramWord 0x2000) = some 0x443322AA := by decide
theorem test_swl_lane_2 : after (step (merging 0xA9090002)) (·.ramWord 0x2000) = some 0x44AABBCC := by decide
theorem test_swr_lane_1 : after (step (merging 0xB9090001)) (·.ramWord 0x2000) = some 0xBBCCDD11 := by decide
theorem test_swr_lane_3 : after (step (merging 0xB9090003)) (·.ramWord 0x2000) = some 0xDD332211 := by decide

/-! ## Access faults and the Router (`95_test_vectors.md` 2.9, 2.11) -/

theorem test_write_to_firmware_stops :
    stopOf (step (machine 0xAD490000 [(9, 1), (10, 0xBFC00000)])) = some (.writeToFirmware 0xBFC00000 0x1FC00000) := by decide
theorem test_unmapped_stops :
    stopOf (step (machine 0x8D890000 [(12, 0xFFFE0130)])) = some (.unmappedAddress 0xFFFE0130) := by decide
theorem test_narrow_device_store_stops :
    stopOf (step (machine 0xA1690000 [(11, 0x1F801810)])) = some (.unsupportedWidth 0x1F801810 .byte) := by decide
theorem test_dpcr_through_kseg1 :
    after (step (machine 0x8D890000 [(12, 0xBF8010F0)])) (·.reg 9) = some 0x07654321 := by decide
theorem test_madr_keeps_24_bits :
    after (step (machine 0xAD490000 [(9, 0xFF123457), (10, 0x1F8010E0)]))
      (fun t => t.memRead 0x1F8010E0 .word) = some (.ok 0x00123457) := by decide

/-! ## System and coprocessor 0 (`95_test_vectors.md` 2.10) -/

theorem test_syscall :
    after (step { machine 0x03FFFFCC [] with sr := 0x3F }) (fun t => (t.sr, t.cause, t.epc, t.currentPc, t.nextPc))
      = some (0x3C, 0x20, 0x80001000, 0x80000080, 0x80000084) := by decide
theorem test_syscall_boot_vector :
    after (step { machine 0x0000000C [] with sr := 0x00400015 }) (fun t => (t.sr, t.currentPc))
      = some (0x00400014, 0xBFC00180) := by decide
theorem test_break :
    after (step { machine 0x0000000D [] with sr := 0x00010001 }) (fun t => (t.sr, t.cause)) = some (0x00010004, 0x24) := by decide
theorem test_break_in_slot_stops :
    stopOf (step (inSlot (machine 0x0000000D []))) = some (.exceptionInDelaySlot 0x80001000 9) := by decide
theorem test_mfc0_sr :
    after (step { machine 0x40086000 [] with sr := 0x00410003 }) (·.reg 8) = some 0x00410003 := by decide
theorem test_mfc0_unknown :
    stopOf (step (machine 0x40087800 [])) = some (.unknownCop0Register 0x80001000 15) := by decide
theorem test_mtc0_epc : after (step (machine 0x40887000 [(8, 0xDEADBEEF)])) (·.epc) = some 0xDEADBEEF := by decide
theorem test_mtc0_cause :
    stopOf (step (machine 0x40886800 [(8, 0x300)])) = some (.cop0CauseWrite 0x80001000 0x300) := by decide
theorem test_rfe : after (step { machine 0x42000010 [] with sr := 0x0040003C }) (·.sr) = some 0x0040000F := by decide
theorem test_rfe_low_bits : after (step { machine 0x42000010 [] with sr := 0x21 }) (·.sr) = some 0x8 := by decide

/-! ## GPU ports (S7, S8 and `95_test_vectors.md` 2.13, 2.14) -/

/-- Words to GPU port 0 from the reset state, and to port 1. -/
def gp0 (ws : List Word) : Result := State.reset.gp0Stream ws
def gp1 (w : Word) : Result := State.reset.gp1 w

theorem test_gp0_nop : after (gp0 [0x00FFFFFF]) (·.gpu) = some State.reset.gpu := by decide
theorem test_gp0_cache_flush_stub : after (gp0 [0x01ABCDEF]) (·.gpu) = some State.reset.gpu := by decide
theorem test_gp0_interrupt_clears :
    after (gp1 0x030000FE |>.andThen fun s => exec .gp0Interrupt { s with gpu.status := 0x15000000 }) (·.gpu.status)
      = some 0x14000000 := by decide
theorem test_gp0_interrupt_sets :
    after (exec .gp0Interrupt { State.reset with cfg.gp0IrqEffect := .set }) (·.gpu.status) = some 0x15000000 := by decide
theorem test_gp0_draw_mode :
    after (gp0 [0xE1003E2F]) (fun t => (t.gpu.status, t.gpu.rectFlipX, t.gpu.rectFlipY)) = some (0x1400862F, true, true) := by decide
theorem test_gp0_texture_window :
    after (gp0 [0xE2000421]) (fun t => (t.gpu.twMaskX, t.gpu.twMaskY, t.gpu.twOffX, t.gpu.twOffY)) = some (1, 1, 1, 0) := by decide
theorem test_gp0_draw_area_top_left :
    after (gp0 [0xE3000400]) (fun t => (t.gpu.daLeft, t.gpu.daTop, t.gpu.daRight)) = some (0, 1, 0) := by decide
theorem test_gp0_draw_area_bottom_right :
    after (gp0 [0xE403BD3F]) (fun t => (t.gpu.daRight, t.gpu.daBottom, t.gpu.daLeft)) = some (319, 239, 0) := by decide
theorem test_gp0_draw_offset :
    after (gp0 [0xE5080140]) (fun t => (t.gpu.offX, t.gpu.offY)) = some (320, 256) := by decide
theorem test_gp0_draw_offset_negative :
    after (gp0 [0xE5200000]) (fun t => (t.gpu.offX.toInt, t.gpu.offY.toInt)) = some (0, -1024) := by decide
theorem test_gp0_mask_bits : after (gp0 [0xE6000002]) (·.gpu.status) = some 0x14001000 := by decide
theorem test_gp0_mono_quad :
    after (gp0 [0x28112233, 0xFC00FC00, 0x03FF03FF, 0x7FFF8000, 0xFFFFFFFF]) (·.gpu.out) = some
      [.triangle ⟨-1024, -1024, 0x112233⟩ ⟨1023, 1023, 0x112233⟩ ⟨-32768, 32767, 0x112233⟩,
       .triangle ⟨1023, 1023, 0x112233⟩ ⟨-32768, 32767, 0x112233⟩ ⟨-1, -1, 0x112233⟩] := by decide
theorem test_gp0_parameters_are_data :
    after (gp0 [0x28FFFFFF, 0xE1000001, 0xE1000002, 0xE1000003])
      (fun t => (t.gpu.mode, t.gpu.fetched, t.gpu.required, t.gpu.status)) = some (.bufferingParams, 4, 5, 0x14000000) := by decide
theorem test_gp0_shaded_triangle :
    after (gp0 [0x30FF0000, 0x00100010, 0x0000FF00, 0x00100050, 0x000000FF, 0xFFF00030])
      (fun t => (t.gpu.mode, t.gpu.out)) = some (.idle, [.triangle ⟨16, 16, 0xFF0000⟩ ⟨80, 16, 0x00FF00⟩ ⟨48, -16, 0x0000FF⟩]) := by decide
theorem test_gp0_shaded_quad :
    after (gp0 [0x38FF0000, 0, 0x3800FF00, 0x00000010, 0x000000FF, 0x00100000, 0x00FFFFFF, 0x00100010]) (·.gpu.out) = some
      [.triangle ⟨0, 0, 0xFF0000⟩ ⟨16, 0, 0x00FF00⟩ ⟨0, 16, 0x0000FF⟩,
       .triangle ⟨16, 0, 0x00FF00⟩ ⟨0, 16, 0x0000FF⟩ ⟨16, 16, 0xFFFFFF⟩] := by decide
theorem test_gp0_image_load :
    after (gp0 [0xA0000000, 0, 0x00020002, 0xE1000001, 0xE1000002]) (fun t => (t.gpu.mode, t.gpu.status, t.gpu.out))
      = some (.idle, 0x14000000, [.imageLoad 0 0 2 2, .imageWord 0xE1000001, .imageWord 0xE1000002]) := by decide
theorem test_gp0_image_load_largest :
    after (gp0 [0xA0000000, 0, 0xFFFFFFFF]) (fun t => (t.gpu.mode, t.gpu.required))
      = some (.bufferingTextureData, 0x7FFF0001) := by decide
theorem test_gp0_unknown : stopOf (gp0 [0xE7000000]) = some (.unknownGp0 0xE7000000) := by decide
theorem test_gp1_soft_reset :
    after ((gp0 [0xE1003E2F, 0xE5080140, 0x28000000, 0, 0]).andThen (exec .gp1SoftReset))
      (fun t => (t.gpu.status, t.gpu.offX, t.gpu.mode, t.gpu.fetched, t.gpu.rectFlipX)) = some (0x14000000, 0, .idle, 0, false) := by decide
theorem test_gp1_interrupt_acknowledge :
    after (exec .gp1InterruptAcknowledge { State.reset with gpu.status := 0x15000000 }) (·.gpu.status) = some 0x14000000 := by decide
theorem test_gp1_display_enable : after (gp1 0xC3000001) (·.gpu.status) = some 0x14800000 := by decide
theorem test_gp1_dma_direction : after (gp1 0x04000002) (·.gpu.status) = some 0x54000000 := by decide
theorem test_gp1_display_origin :
    after (gp1 0x0503C140) (fun t => (t.gpu.dispX, t.gpu.dispY)) = some (320, 240) := by decide
theorem test_gp1_horizontal_range :
    after (gp1 0x06C60260) (fun t => (t.gpu.hStart, t.gpu.hEnd)) = some (0x260, 0xC60) := by decide
theorem test_gp1_vertical_range :
    after (gp1 0x07040010) (fun t => (t.gpu.vStart, t.gpu.vEnd)) = some (0x010, 0x100) := by decide
theorem test_gp1_display_mode : after (gp1 0x080000FF) (·.gpu.status) = some 0x147F4000 := by decide
theorem test_gp1_display_mode_reverse : after (gp1 0x08000080) (·.gpu.status) = some 0x14004000 := by decide
theorem test_gp1_unknown : stopOf (gp1 0x09000000) = some (.unknownGp1 0x09000000) := by decide

/-! ## DMA (S5, S6 and `95_test_vectors.md` 2.12) -/

/-- The reset state with one channel's base address and block word set. -/
def dma (n : ChannelId) (madr : BitVec 24) (bcr : Word) : State := (State.reset.setMadr n madr).setBcr n bcr

/-- R315, R317: the clear that wraps inside main memory. -/
theorem test_dma_ordering_table :
    after (chcrWrite 6 0x11000002 (dma 6 4 3)) (fun t => (t.ramWord 4, t.ramWord 0, t.ramWord 0x1FFFFC, (t.channel 6).chcr))
      = some (0, 0x001FFFFC, 0x00FFFFFF, 2) := by decide

/-- R320: a next pointer masked to a word of main memory. -/
theorem test_dma_linked_list :
    after (chcrWrite 2 0x01000401 (((dma 2 0x2000 0).setRamWord 0x2000 0x01802101).setRamWord 0x2004 0xE1000005
      |>.setRamWord 0x2100 0x00FFFFFF)) (fun t => (t.gpu.status, (t.channel 2).chcr)) = some (0x14000005, 0x00000401) := by decide

/-- R327: a stop of the GPU stops the transfer. -/
theorem test_dma_list_stops_inside :
    stopOf (chcrWrite 2 0x01000401 (((dma 2 0x2000 0).setRamWord 0x2000 0x01FFFFFF).setRamWord 0x2004 0x55000000))
      = some (.unknownGp0 0x55000000) := by decide

/-- R318, R319: two words, in descending addresses. -/
theorem test_dma_gpu_block :
    after (chcrWrite 2 0x01000203 (((dma 2 0x3000 0x00020001).setRamWord 0x3000 0xE3000003).setRamWord 0x2FFC 0xE4000004))
      (fun t => (t.gpu.daLeft, t.gpu.daRight, (t.channel 2).chcr)) = some (3, 4, 0x203) := by decide

/-- R316: no unit, so no test of the device. -/
theorem test_dma_zero_length_completes :
    after (chcrWrite 3 0x01000201 (dma 3 0 5)) (fun t => (t.channel 3).chcr) = some 0x201 := by decide

theorem test_dma_unsupported :
    stopOf (chcrWrite 3 0x01000201 (dma 3 0 0x00010001)) = some (.dmaUnsupported 3 0x01000201) := by decide
theorem test_dma_reserved_sync :
    stopOf (chcrWrite 2 0x01000600 (dma 2 0 0x00010001)) = some (.dmaReservedSync 2 0x01000600) := by decide
theorem test_dma_bad_list :
    stopOf (chcrWrite 6 0x01000400 (dma 6 0 0x00010001)) = some (.dmaBadLinkedList 6 0x01000400) := by decide
/-- R323, R324. -/
theorem test_dma_interrupt :
    after (chcrWrite 6 0x11000002 (let s := dma 6 0x1000 1; { s with dma := s.dma.dicrWrite 0x00FF803F }))
      (fun t => (t.dma.dicrRead, t.dma.irqPending)) = some (0xC0FF803F, true) := by decide

/-- R305, R306. -/
theorem test_dicr_acknowledge :
    ({ Dma.reset with dicrFlags := 0x55 }.dicrWrite 0x05D50000).dicrRead = 0xD0D50000 := by decide


/-! ## Witnesses: states and operands that meet the hypotheses of each obligation, clause by clause -/

/-- A machine at reset whose firmware image begins with a word: the first fetch reads it. -/
def booting (w : Word) : State := { State.reset with bios := Memory.writeLE [] 0 .word w }

/-- The reset state with the address in x[8] and the value in x[9]. -/
def accessing (a v : Word) : State := (State.reset.setReg 8 a).setReg 9 v

/-- A GP0 state that R60 excludes: the buffer is full. -/
def overrun : State := { State.reset with gpu := { State.reset.gpu with mode := .bufferingParams, fetched := 12, required := 13 } }

theorem test_reset_inv : State.reset.Inv :=
  ⟨by decide +kernel, rfl, rfl, by decide +kernel, by decide +kernel, ⟨rfl, rfl⟩, by decide +kernel, by decide +kernel⟩

theorem test_witness_DecodeInvertsEncode :
    (Instr.gp0DrawOffset (-1024) 1023).wellFormed = true ∧ (Instr.gp0ShadedQuad 0 1 2 3 4 5 6 7).wellFormed = true
    ∧ (Instr.lw 31 31 0xFFFF).wellFormed = true := by decide +kernel

/-- The word of all ones satisfies no CPU row. -/
theorem test_ones_is_no_cpu_row (j : Instr) (hj : j.space = .cpu) : (0xFFFFFFFF : Word) &&& j.tableMask ≠ j.tableMatch := by
  cases j <;> first | (cases hj; done) | (simp only [Instr.tableMask, Instr.tableMatch]; decide)

theorem test_witness_CpuWordsFollowTheTable :
    (∃ w i, decodeCpu w = .ok i) ∧ (∃ (w : Word) (j : Instr), j.space = .cpu ∧ w &&& j.tableMask = j.tableMatch)
    ∧ ∃ w : Word, ∀ j : Instr, j.space = .cpu → w &&& j.tableMask ≠ j.tableMatch :=
  ⟨⟨0, _, rfl⟩, ⟨0x42000010, .rfe, rfl, rfl⟩, _, test_ones_is_no_cpu_row⟩

theorem test_witness_GpuWordsFollowTheTable :
    (∃ w ws i rest, decode .gp0 (w :: ws) = .ok (i, rest)) ∧ (∃ w ws i rest, decode .gp1 (w :: ws) = .ok (i, rest)) :=
  ⟨⟨0xA0000000, [0, 0], _, _, rfl⟩, 0xC3000001, [], _, _, rfl⟩

/-- One word at each end of each range R131 lists. -/
theorem test_witness_ReservedEncodingsStop :
    [0x44000000, 0xBC000000, 0x60000000, 0x7C000000, 0xC0000000, 0xFC000000, 0x00000001, 0x00000029, 0x0000002C, 0x0000003F,
      0x04020000, 0x041F0000, 0x40200000, 0x43E00000, 0x42000011, (0x4200003F : Word)].all (fun w =>
      let op := (w.extractLsb' 26 6).toNat
      let rs := (w.extractLsb' 21 5).toNat
      let rt := (w.extractLsb' 16 5).toNat
      let funct := (w.extractLsb' 0 6).toNat
      decide ((booting w).halted = none ∧ (booting w).fetch = .ok w
        ∧ (op ∈ [0x11, 0x2F] ∨ 0x18 ≤ op ∧ op < 0x20 ∨ 0x30 ≤ op ∨ op = 0 ∧ funct ∈ [0x01, 0x29] ∨ op = 0 ∧ 0x2C ≤ funct
          ∨ op = 1 ∧ rt ≠ 0 ∧ rt ≠ 1 ∧ rt ≠ 16 ∧ rt ≠ 17 ∨ op = 16 ∧ rs ≠ 0 ∧ rs ≠ 4 ∧ rs ≠ 16
          ∨ op = 16 ∧ rs = 16 ∧ funct ≠ 16))) = true := by decide +kernel

theorem test_witness_StepRunsDecodedInstruction :
    (∃ t, (booting 0).memRead (booting 0).currentPc .word = .ok 0 ∧ exec (.sll 0 0 0) (booting 0).prologue = .next t)
    ∧ (∃ e, decodeCpu 0x40080000 = .ok (.mfc0 8 0) ∧ (booting 0x40080000).fetch = .ok 0x40080000
        ∧ exec (.mfc0 8 0) (booting 0x40080000).prologue = .fault e)
    ∧ (∃ (s : State) (e : Refusal), s.halted = none ∧ s.fetch = .ok 0xAD090000 ∧ decodeCpu 0xAD090000 = .ok (.sw 9 8 0)
        ∧ exec (.sw 9 8 0) s.prologue = .refused e)
    ∧ (∃ (s : State) (r : FatalReason), s.halted = none ∧ s.fetch = .error r)
    ∧ (∃ e, (booting 0xFFFFFFFF).fetch = .ok 0xFFFFFFFF ∧ decodeCpu 0xFFFFFFFF = .error e)
    ∧ (∃ (s : State) (r : FatalReason), s.halted = some r) := by
  refine ⟨⟨_, rfl, rfl⟩, ⟨_, rfl, by decide +kernel, rfl⟩,
    ⟨{ overrun with bios := Memory.writeLE [] 0 .word 0xAD090000 }.setReg 8 0x1F801810, .gp0BufferOverrun 12, rfl, by decide +kernel,
      rfl, rfl⟩,
    ⟨{ State.reset with currentPc := 1 }, _, rfl, rfl⟩, ⟨_, by decide +kernel, rfl⟩,
    { State.reset with halted := some (.unknownGp0 0) }, _, rfl⟩

theorem test_witness_ResetHasInvariant :
    Config.default.WellFormed ∧ Memory.wf [(0x7FFFF, 1)] ∧ Memory.within Config.default.bios.size [(0x7FFFF, 1)] := by
  decide +kernel

theorem test_witness_StepKeepsInvariant : ∃ s t, s.Inv ∧ step s = .next t :=
  ⟨State.reset, _, test_reset_inv, rfl⟩

theorem test_witness_InvariantStepIsNeverRefused : ∃ s : State, s.Inv := ⟨_, test_reset_inv⟩

theorem test_witness_WhatNoStepUndoes : ∃ s t, step s = .next t ∧ s.dma.irqPending = true :=
  ⟨{ State.reset with dma := { Dma.reset with irqPending := true } }, _, rfl, rfl⟩

theorem test_witness_StateHasItsOwners :
    (∃ t, exec (.j 0) State.reset = .next t) ∧ (Instr.j 0).canRaise = false ∧ (Instr.j 0).writesHiLo = false
    ∧ (Instr.j 0).isStore = false ∧ (Instr.j 0).space = .cpu
    ∧ (∃ t, exec (.lw 1 0 0) State.reset = .next t) ∧ (Instr.lw 1 0 0).canRaise = false ∧ (Instr.lw 1 0 0).isTransfer = false :=
  ⟨⟨_, rfl⟩, rfl, rfl, rfl, rfl, ⟨_, rfl⟩, rfl, rfl⟩

theorem test_witness_DelaySlotTimeline :
    (∃ t, step (booting 0x08000400) = .next t) ∧ (booting 0x08000400).executedBranch = false
    ∧ (booting 0x08000400).fetch = .ok 0x08000400 ∧ decodeCpu 0x08000400 = .ok (.j 0x400) ∧ (Instr.j 0x400).isTransfer = true
    ∧ (∃ t, step (booting 0x00000012) = .next t) ∧ (booting 0x00000012).fetch = .ok 0x00000012
    ∧ decodeCpu 0x00000012 = .ok (.mflo 0) ∧ (Instr.mflo 0).isTransfer = false ∧ (Instr.mflo 0).canRaise = false := by
  refine ⟨exists_next (by decide +kernel), rfl, by decide +kernel, rfl, rfl, exists_next (by decide +kernel), by decide +kernel, rfl, rfl, rfl⟩

/-- Both ends of each segment (R71). -/
theorem test_witness_SegmentMasking :
    physOf 0 = 0 ∧ physOf 0x7FFFFFFF = 0x7FFFFFFF ∧ physOf 0x80000000 = 0 ∧ physOf 0x9FFFFFFF = 0x1FFFFFFF
    ∧ physOf 0xA0000000 = 0 ∧ physOf 0xBFFFFFFF = 0x1FFFFFFF ∧ physOf 0xC0000000 = 0xC0000000
    ∧ physOf 0xFFFFFFFF = 0xFFFFFFFF := by decide +kernel

theorem test_witness_LittleEndian :
    State.reset.cfg.WellFormed ∧ State.reset.MemoriesWf
    ∧ isNext (State.reset.memWrite 0x007FFFFC .word 0x11223344) = true
    ∧ regionOf State.reset.cfg (physOf 0x007FFFFC) = .ram
    ∧ isNext (State.reset.memWrite 0x1F8003FC .word 0x11223344) = true
    ∧ regionOf State.reset.cfg (physOf 0x1F8003FC) = .scratch := by decide +kernel

theorem test_witness_MisalignedAccessStops :
    (1 : Word).toNat % Width.half.bytes ≠ 0 ∧ (0xFFFFFFFE : Word).toNat % Width.word.bytes ≠ 0
    ∧ State.reset.halted = none ∧ ({ State.reset with currentPc := 0x80000002 } : State).currentPc.toNat % 4 ≠ 0 := by
  decide +kernel

/-- Both ends of each range: the byte there is readable, or the address is outside the map. -/
theorem test_witness_MemoryMap :
    State.reset.cfg = Config.default
    ∧ [0x00000000, 0x007FFFFF, 0x1F800000, 0x1F8003FF, 0x1FC00000, (0x1FC7FFFF : Word)].all (fun a =>
        decide (State.reset.memRead a .byte = .ok 0)) = true
    ∧ [0x00800000, 0x1EFFFFFF, 0x1F800400, 0x1F800FFF, 0x1F803000, 0x1FBFFFFF, 0x1FC80000, (0xFFFFFFFF : Word)].all (fun a =>
        decide (State.reset.memRead a .byte = .error (.unmappedAddress a))) = true
    ∧ (∃ s : State, s.cfg = Config.default ∧ s.halted = none ∧ s.currentPc = 0x00800000
        ∧ (0x00800000 : Word).toNat % Width.word.bytes = 0) :=
  ⟨rfl, by decide +kernel, by decide +kernel, { State.reset with currentPc := 0x00800000 }, rfl, rfl, rfl, rfl⟩

theorem test_witness_FirmwareAndStubs :
    [0x1FC00000, (0xBFC7FFFC : Word)].all (fun a => decide (regionOf Config.default (physOf a) = .bios ∧ a.toNat % 4 = 0))
    ∧ [0x1F000000, (0x9F7FFFFC : Word)].all (fun a => decide (regionOf Config.default (physOf a) = .exp1 ∧ a.toNat % 4 = 0))
    ∧ [0x1F801000, 0x1F80108C, 0x1F8010EC, 0x1F8010F8, 0x1F80180C, 0x1F801818, (0x1F802FFC : Word)].all (fun a =>
        decide (regionOf Config.default (physOf a) = .io ∧ devRegAt (physOf a) = none))
    ∧ [0x1F801080, 0x1F8010E8, 0x1F8010F0, 0x1F8010F4, 0x1F801810, (0x1F801817 : Word)].all (fun a =>
        decide (regionOf Config.default (physOf a) = .io ∧ devRegAt (physOf a) ≠ none ∧ a.toNat % Width.byte.bytes = 0)) := by
  decide +kernel

theorem test_witness_DeviceRegisters :
    [0x1F801080, 0x1F8010E0, 0x1F801084, 0x1F8010E4, 0x1F801088, 0x1F8010E8, 0x1F8010F0, 0x1F8010F4, 0x1F801810,
      (0xBF801814 : Word)].all (fun a =>
      decide (a.toNat % 4 = 0 ∧ regionOf Config.default (physOf a) = .io ∧ devRegAt (physOf a) ≠ none)) = true := by
  decide +kernel

theorem test_witness_ControlWriteStartsTransfer :
    (¬((0x01000000 : Word).getLsbD 24 = true
        ∧ ((0x01000000 : Word).extractLsb' 9 2 ≠ 0 ∨ (0x01000000 : Word).getLsbD 28 = true)))
    ∧ ((0x11000002 : Word).getLsbD 24 = true ∧ (0x11000002 : Word).getLsbD 28 = true
        ∧ ∃ t, dmaRun 6 ((dma 6 0x1000 1).setChcr 6 0x11000002) = .next t)
    ∧ ((0x01000600 : Word).getLsbD 24 = true ∧ (0x01000600 : Word).extractLsb' 9 2 ≠ 0
        ∧ ∃ e, dmaRun 2 ((dma 2 0x1000 1).setChcr 2 0x01000600) = .fault e) :=
  ⟨by decide +kernel, ⟨by decide +kernel, by decide +kernel, exists_next (by decide +kernel)⟩, by decide +kernel, by decide +kernel, _, rfl⟩

theorem test_witness_TransferDispatch :
    ((dma 6 0 0x10000).setChcr 6 0x11000002 |>.channel 6).chcr.extractLsb' 9 2 = 0
    ∧ ((dma 2 0 0x10001).setChcr 2 0x01000201 |>.channel 2).chcr.extractLsb' 9 2 = 1
    ∧ ((dma 2 0 0).setChcr 2 0x01000401 |>.channel 2).chcr.extractLsb' 9 2 = 2
    ∧ ((dma 2 0 0).setChcr 2 0x01000401 |>.channel 2).chcr.getLsbD 0 = true
    ∧ (0x01000600 : Word).getLsbD 24 = true ∧ (0x01000600 : Word).extractLsb' 9 2 = 3
    ∧ (0x01000400 : Word).getLsbD 24 = true ∧ (0x01000400 : Word).extractLsb' 9 2 = 2 ∧ (0x01000400 : Word).getLsbD 0 = false
    ∧ (0x11000001 : Word).getLsbD 24 = true ∧ (0x11000001 : Word).extractLsb' 9 2 = 0 ∧ (0x11000001 : Word).getLsbD 28 = true
    ∧ (0x01000201 : Word).getLsbD 24 = true ∧ (0x01000201 : Word).extractLsb' 9 2 = 1
    ∧ ((dma 3 0 0x00010001).channel 3).bcr.extractLsb' 0 16 ≠ 0 ∧ ((dma 3 0 0x00010001).channel 3).bcr.extractLsb' 16 16 ≠ 0
    ∧ ((dma 3 0 0x00000005).channel 3).bcr.extractLsb' 16 16 = 0 ∧ ((dma 3 0 0x00050000).channel 3).bcr.extractLsb' 0 16 = 0 := by
  decide +kernel

theorem test_witness_OrderingTableClear :
    (0x11000002 : Word).getLsbD 0 = false ∧ 0x80000 ≤ 0x80000 ∧ State.reset.ram.wf := by decide +kernel

theorem test_witness_GpuBlockIsAStream : (0x01000203 : Word).getLsbD 0 = true := by decide +kernel

theorem test_witness_Completion :
    (State.reset.dma.dicrWrite 0x8000).dicrForce = true
    ∧ (State.reset.dma.dicrWrite 0xC00000).dicrMaster = true ∧ (State.reset.dma.dicrWrite 0xC00000).dicrEn.getLsbD 6 = true
    ∧ ¬(State.reset.dma.dicrForce = true ∨ State.reset.dma.dicrMaster = true ∧ State.reset.dma.dicrEn.getLsbD 6 = true) := by
  decide +kernel

theorem test_witness_TransferFrame :
    (∃ t, chcrWrite 6 0x11000002 (dma 6 0x1000 1) = .next t) ∧ (6 : ChannelId) ≠ 2 ∧ (0 : ChannelId) ≠ 6 :=
  ⟨exists_next (by decide +kernel), by decide +kernel, by decide +kernel⟩

theorem test_witness_LinkedListWalkIsComplete :
    let s := State.reset.setRamWord 0 0x00FFFFFF
    ∀ madr control, dmaListFrom 2 1 ((s.channel 2).madr.setWidth 32 &&& 0x1FFFFC) s ≠
      .fault (.endlessLinkedList madr control) := nofun

theorem test_witness_TwoNodeList :
    let s := ((dma 2 0x2000 0).setRamWord 0x2000 0x02002100).setRamWord 0x2100 0x00FFFFFF
    let a := (s.channel 2).madr.setWidth 32 &&& 0x1FFFFC
    (s.ramWord a).extractLsb' 24 8 = 2 ∧ (s.ramWord a).extractLsb' 0 24 ≠ 0xFFFFFF
    ∧ 0x2100 = ((s.ramWord a).extractLsb' 0 24).setWidth 32 &&& 0x1FFFFC ∧ s.ramWord 0x2100 = 0x00FFFFFF := by decide +kernel

/-- A word of each CPU row that a statement selects by its key bits, its operands all ones where it has any. -/
theorem test_witness_Selects :
    [0x00, 0x02, 0x03, 0x04, 0x06, 0x07, 0x08, 0x09, 0x0C, 0x0D, 0x10, 0x11, 0x12, 0x13, 0x18, 0x19, 0x1A, 0x1B, 0x20, 0x21,
      0x22, 0x23, 0x24, 0x25, 0x26, 0x27, 0x2A, (0x2B : Word)].all (fun k => decide ((0x03FFFFC0 ||| k) &&& 0xFC00003F = k))
    ∧ [0x08000000, 0x0C000000, 0x10000000, 0x14000000, 0x18000000, 0x1C000000, 0x20000000, 0x24000000, 0x28000000, 0x2C000000,
      0x30000000, 0x34000000, 0x38000000, 0x3C000000, 0x80000000, 0x84000000, 0x88000000, 0x8C000000, 0x90000000, 0x94000000,
      0x98000000, 0xA0000000, 0xA4000000, 0xA8000000, 0xAC000000, (0xB8000000 : Word)].all (fun k =>
        decide ((0x03FFFFFF ||| k) &&& 0xFC000000 = k))
    ∧ [0x04000000, 0x04010000, 0x04100000, (0x04110000 : Word)].all (fun k => decide ((0x03E0FFFF ||| k) &&& 0xFC1F0000 = k))
    ∧ [0x40000000, (0x40800000 : Word)].all (fun k => decide ((0x001FFFFF ||| k) &&& 0xFFE00000 = k))
    ∧ (0x421FFFD0 : Word) &&& 0xFFE0003F = 0x42000010 := by decide +kernel

/-- An addition that fits, and one that does not, in and outside a delay slot and under both values of `OVF_MODE`. -/
theorem test_witness_SignedOverflow :
    let s := (State.reset.setReg 1 0x7FFFFFFF).setReg 2 1
    (-2 ^ 31 ≤ (s.reg 1).toInt + (s.reg 0).toInt ∧ (s.reg 1).toInt + (s.reg 0).toInt < 2 ^ 31)
    ∧ ¬(-2 ^ 31 ≤ (s.reg 1).toInt + (s.reg 2).toInt ∧ (s.reg 1).toInt + (s.reg 2).toInt < 2 ^ 31)
    ∧ s.cfg.ovfMode = .exception ∧ s.inDelaySlot = false ∧ (inSlot s).inDelaySlot = true
    ∧ ({ s with cfg.ovfMode := .fatal } : State).cfg.ovfMode = .fatal := by decide +kernel

/-- A zero divisor, the least number over minus one, and neither. -/
theorem test_witness_Divide :
    let s := (State.reset.setReg 1 0x80000000).setReg 2 0xFFFFFFFF
    s.reg 0 = 0 ∧ s.reg 1 = 0x80000000 ∧ s.reg 2 = 0xFFFFFFFF ∧ s.reg 1 ≠ 0 ∧ ¬(s.reg 2 = 0x80000000 ∧ s.reg 1 = 0xFFFFFFFF) := by
  decide +kernel

theorem test_witness_Jumps : State.reset.inDelaySlot = false ∧ (inSlot State.reset).inDelaySlot = true := ⟨rfl, rfl⟩

theorem test_witness_Branches : State.reset.inDelaySlot = false ∧ (inSlot State.reset).inDelaySlot = true := ⟨rfl, rfl⟩

theorem test_witness_TransferInDelaySlotStops :
    (Instr.bgezal 1 0xFFFF).isTransfer = true ∧ (inSlot State.reset).inDelaySlot = true ∧ State.reset.inDelaySlot = false := by
  decide +kernel

theorem test_witness_CacheIsolation :
    (Instr.swr 1 2 3).isAccess = true ∧ (Instr.lb 1 2 3).isAccess = true
    ∧ ({ State.reset with sr := 0x00010000 } : State).sr.getLsbD 16 = true := by decide +kernel

/-- A load that reads, one that stops, and one while IsC is set. -/
theorem test_witness_Loads :
    State.reset.sr.getLsbD 16 = false ∧ State.reset.memRead 0x1FC7FFFF .byte = .ok 0
    ∧ State.reset.memRead 0x1F8003FE .half = .ok 0 ∧ State.reset.memRead 0x007FFFFC .word = .ok 0
    ∧ State.reset.memRead 1 .half = .error (.misaligned 1 .half) ∧ State.reset.memRead 2 .word = .error (.misaligned 2 .word)
    ∧ State.reset.memRead 0x00800000 .byte = .error (.unmappedAddress 0x00800000)
    ∧ ({ State.reset with sr := 0x00010000 } : State).sr.getLsbD 16 = true := by decide +kernel

theorem test_witness_UnalignedLoads :
    State.reset.sr.getLsbD 16 = false ∧ State.reset.memRead (0x007FFFFF &&& 0xFFFFFFFC) .word = .ok 0
    ∧ State.reset.memRead (0x00800003 &&& 0xFFFFFFFC) .word = .error (.unmappedAddress 0x00800000)
    ∧ ({ State.reset with sr := 0x00010000 } : State).sr.getLsbD 16 = true := by decide +kernel

theorem test_witness_Stores :
    State.reset.sr.getLsbD 16 = false ∧ ({ State.reset with sr := 0x00010000 } : State).sr.getLsbD 16 = true := by decide +kernel

/-- The last word of each memory. -/
theorem test_witness_StoresWriteTheirBytes :
    State.reset.sr.getLsbD 16 = false ∧ State.reset.ram.wf ∧ State.reset.scratch.wf
    ∧ ((accessing 0x007FFFFC 0).effectiveAddress 8 0).toNat % 4 = 0
    ∧ ((accessing 0x007FFFFC 0).effectiveAddress 8 2).toNat % 2 = 0
    ∧ regionOf Config.default (physOf ((accessing 0x007FFFFC 0).effectiveAddress 8 3)) = .ram
    ∧ ((accessing 0x1F8003FC 0).effectiveAddress 8 0).toNat % 4 = 0
    ∧ regionOf Config.default (physOf ((accessing 0x1F8003FC 0).effectiveAddress 8 0)) = .scratch := by decide +kernel

theorem test_witness_UnalignedStores :
    let s := accessing 0x007FFFFF 0
    s.sr.getLsbD 16 = false ∧ s.ram.wf ∧ s.scratch.wf ∧ s.memRead (s.effectiveAddress 8 0 &&& 0xFFFFFFFC) .word = .ok 0
    ∧ s.memRead (s.effectiveAddress 8 4 &&& 0xFFFFFFFC) .word = .error (.unmappedAddress 0x00800000)
    ∧ ({ s with sr := 0x00010000 } : State).sr.getLsbD 16 = true := by decide +kernel

theorem test_witness_UnalignedLoadIdiom :
    let s := accessing 0x007FFFFC 0
    s.sr.getLsbD 16 = false ∧ (8 : Reg) ≠ 9 ∧ s.cfg.WellFormed
    ∧ ∀ k : Fin 4, regionOf s.cfg (physOf (s.reg 8 + BitVec.ofNat 32 k)) = .ram := by decide +kernel

theorem test_witness_UnalignedStoreIdiom :
    let s := accessing 0x80001003 0
    s.sr.getLsbD 16 = false ∧ s.cfg.WellFormed ∧ s.ram.wf
    ∧ ∀ k : Fin 4, regionOf s.cfg (physOf (s.reg 8 + BitVec.ofNat 32 k)) = .ram := by decide +kernel

theorem test_witness_TrapInstructions : State.reset.inDelaySlot = false ∧ (inSlot State.reset).inDelaySlot = true := by decide +kernel

theorem test_witness_CoprocessorMoves :
    (accessing 1 0).reg 8 ≠ 0 ∧ (accessing 1 0).reg 9 = 0 ∧ State.reset.cfg.causeWriteZero = .ignore
    ∧ ({ State.reset with cfg.causeWriteZero := .clear } : State).cfg.causeWriteZero = .clear
    ∧ (15 : Reg) ≠ 12 ∧ (15 : Reg) ≠ 13 ∧ (15 : Reg) ≠ 14 := by decide +kernel

theorem test_witness_ReturnFromException : State.reset.inDelaySlot = false := rfl

/-- Idle, and a word of every GP0 opcode the statements select. -/
theorem test_witness_Gp0Commands :
    State.reset.gpu.mode = .idle
    ∧ [0x00, 0x01, 0x1F, 0x28, 0x30, 0x38, 0xA0, 0xE1, 0xE2, 0xE3, 0xE4, 0xE5, (0xE6 : BitVec 8)].all fun op =>
      decide ((gpuWord op 0xFFFFFF).extractLsb' 24 8 = op) := by decide +kernel

/-- An image load that waits for two words: the first leaves it waiting, both end it. -/
theorem test_witness_Gp0ImageLoad :
    after (gp0 [0xA0000000, 0, 0x00020002]) (fun t => (t.gpu.mode, t.gpu.fetched, t.gpu.required))
      = some (.bufferingTextureData, 0, 2) := by decide +kernel

/-- A quad with one word taken: three more leave it waiting. -/
theorem test_witness_ParametersAreData :
    after (gp0 [0x28000000]) (fun t => (t.gpu.mode, t.gpu.fetched, t.gpu.required)) = some (.bufferingParams, 1, 5) := by decide +kernel

theorem test_witness_PortWordsRunDecodedCommands :
    State.reset.gpu.mode = .idle ∧ (∃ i, decode .gp0 [0xA0FFFFFF, 1, 2] = .ok (i, []))
    ∧ ∃ i, decode .gp1 [0xC3FFFFFF] = .ok (i, []) := ⟨rfl, ⟨_, rfl⟩, _, rfl⟩

theorem test_witness_UnknownCommandsStop :
    ((0x02000000 : Word).extractLsb' 24 8).toNat ∉
      [0x00, 0x01, 0x1F, 0x28, 0x30, 0x38, 0xA0, 0xE1, 0xE2, 0xE3, 0xE4, 0xE5, 0xE6]
    ∧ ((0x01000000 : Word).extractLsb' 24 6).toNat = 1 ∧ 9 ≤ ((0xC9000000 : Word).extractLsb' 24 6).toNat := by decide +kernel

/-- A word of every GP1 opcode the statements select. -/
theorem test_witness_Gp1Commands :
    [0, 2, 3, 4, 5, 6, 7, (8 : BitVec 6)].all fun op =>
      decide (((3 : BitVec 2) ++ op ++ (0xFFFFFF : BitVec 24)).extractLsb' 24 6 = op) := by
  decide +kernel

theorem test_witness_HostSideload :
    State.reset.ram.wf ∧ [(0x11 : Byte), 0x22].length ≤ 0x200000
    ∧ (State.reset.hostSideload 0x80010000 1 2 0x001FFFFF [0x11, 0x22]).ram = [(0, 0x22), (0x1FFFFF, 0x11)] := by decide +kernel

end Sys2Proof.Tests
end

section
/-!
SUPPORT. The frame of every instruction: which blocks of state it may write (R29, R23, R252, R150, R220), said once
as the state with those blocks put back; and each block's owners, O13.
-/

namespace Sys2Proof

/-- The instructions that write coprocessor 0: its move, `rfe`, and those that can raise (R29). -/
def Instr.writesCop0 : Instr → Bool
  | .mtc0 .. | .rfe => true
  | i => i.canRaise

/-- The instructions that write `next_pc` or `executed_branch`: control transfers and those that can raise. -/
def Instr.redirects (i : Instr) : Bool := i.canRaise || i.isTransfer

/-- The instructions that write the GPU: stores, which may reach a port or start a transfer, and GPU commands. -/
def Instr.writesGpu (i : Instr) : Bool := i.isStore || i.space != .cpu

/-- The instructions that write a general register. -/
def Instr.writesRegs : Instr → Bool
  | .syscall | .brk | .mtc0 .. | .rfe => false
  | i => !i.writesHiLo && !i.writesGpu

theorem Instr.writesCop0_eq_false {i : Instr} (hraise : i.canRaise = false) (hrfe : i ≠ .rfe)
    (hmtc0 : ∀ rt rd, i ≠ .mtc0 rt rd) : i.writesCop0 = false := by
  cases i
  case mtc0 rt rd => exact absurd rfl (hmtc0 rt rd)
  case rfe => exact absurd rfl hrfe
  all_goals exact hraise

end Sys2Proof

namespace Sys2Proof.Machine

/-- `t` with every block of state that `i` may write put back to what it is in `s`. -/
def State.putBack (i : Instr) (s t : State) : State :=
  { t with
    regs := bif i.writesRegs then s.regs else t.regs
    hi := bif i.writesHiLo then s.hi else t.hi
    lo := bif i.writesHiLo then s.lo else t.lo
    currentPc := bif i.canRaise then s.currentPc else t.currentPc
    nextPc := bif i.redirects then s.nextPc else t.nextPc
    executedBranch := bif i.redirects then s.executedBranch else t.executedBranch
    sr := bif i.writesCop0 then s.sr else t.sr
    cause := bif i.writesCop0 then s.cause else t.cause
    epc := bif i.writesCop0 then s.epc else t.epc
    ram := bif i.isStore then s.ram else t.ram
    scratch := bif i.isStore then s.scratch else t.scratch
    dma := bif i.isStore then s.dma else t.dma
    devLog := bif i.isStore then s.devLog else t.devLog
    gpu := bif i.writesGpu then s.gpu else t.gpu }

/-! ## The frame of each shape of instruction -/

/-- An add, addi or sub writes a register and, when it traps, what exception entry writes. -/
theorem State.writeThenTrap_only {s t : State} {rd : Reg} {r : Word} {ov : Bool}
    (h : s.writeThenTrap rd r ov = .next t) :
    { t with regs := s.regs, currentPc := s.currentPc, nextPc := s.nextPc, executedBranch := s.executedBranch,
             sr := s.sr, cause := s.cause, epc := s.epc } = s := by
  rcases State.writeThenTrap_eq_next.1 h with ⟨-, rfl⟩ | ⟨-, -, -, rfl⟩ <;> simp

theorem State.raise_only {s t : State} {c : BitVec 5} (h : s.raise c = .next t) :
    { t with currentPc := s.currentPc, nextPc := s.nextPc, executedBranch := s.executedBranch, sr := s.sr,
             cause := s.cause, epc := s.epc } = s := by
  obtain ⟨-, rfl⟩ := State.raise_eq_next.1 h
  rfl

/-- A control transfer whose body writes registers and `next_pc` only. -/
theorem State.branchEntry_only {s t : State} {f : State → State}
    (hf : ∀ x, { f x with regs := x.regs, nextPc := x.nextPc } = x) (h : s.branchEntry f = .next t) :
    { t with regs := s.regs, nextPc := s.nextPc, executedBranch := s.executedBranch } = s := by
  obtain ⟨-, rfl⟩ := State.branchEntry_eq_next.1 h
  exact congrArg (fun x : State => { x with executedBranch := s.executedBranch }) (hf { s with executedBranch := true })

theorem State.loadFrom_only {s t : State} {rt : Reg} {a : Word} {n : Width} {f : Word → Word}
    (h : s.loadFrom rt a n f = .next t) : { t with regs := s.regs } = s := by
  rcases State.loadFrom_eq_next h with ⟨-, rfl⟩ | ⟨-, v, -, rfl⟩
  · rfl
  · exact State.setReg_only ..

theorem State.storeTo_only {s t : State} {a : Word} {n : Width} {v : Word} (h : s.storeTo a n v = .next t) :
    { t with ram := s.ram, scratch := s.scratch, dma := s.dma, gpu := s.gpu, devLog := s.devLog } = s := by
  rcases State.storeTo_eq_next h with ⟨-, rfl⟩ | ⟨-, h⟩
  · rfl
  · exact State.memWrite_only h

theorem State.mergeTo_only {s t : State} {a : Word} {f : Word → Word} (h : s.mergeTo a f = .next t) :
    { t with ram := s.ram, scratch := s.scratch, dma := s.dma, gpu := s.gpu, devLog := s.devLog } = s := by
  rcases State.mergeTo_eq_next h with ⟨-, rfl⟩ | ⟨-, m, -, h⟩
  · rfl
  · exact State.memWrite_only h

theorem execMfc0_only {rt rd : Reg} {s t : State} (h : execMfc0 rt rd s = .next t) : { t with regs := s.regs } = s := by
  unfold execMfc0 at h
  split at h
  · cases h; exact State.setReg_only ..
  · cases h

theorem execMtc0_only {rt rd : Reg} {s t : State} (h : execMtc0 rt rd s = .next t) :
    { t with sr := s.sr, cause := s.cause, epc := s.epc } = s := by
  unfold execMtc0 at h
  split at h
  · next r _ =>
    cases r <;> simp only [State.cop0Write] at h
    · cases h; rfl
    · unfold State.causeWrite at h
      split at h
      · cases h
      · split at h <;> cases h <;> rfl
    · cases h; rfl
  · cases h

theorem State.gp0Stream_only {s t : State} {ws : List Word} (h : s.gp0Stream ws = .next t) : OnlyGpu s t :=
  State.gp0Stream_keeps (P := OnlyGpu s) (fun x w y hx hy => by
    obtain ⟨g, -, rfl⟩ := State.gp0_eq_next.1 hy; exact hx) rfl h

theorem State.gp1Stream_only {s t : State} {ws : List Word} (h : s.gp1Stream ws = .next t) : OnlyGpu s t :=
  State.gp1Stream_keeps (P := OnlyGpu s) (fun x w y hx hy => by
    obtain ⟨g, -, rfl⟩ := State.gp1_eq_next.1 hy; exact hx) rfl h

/-! ## The frame of every instruction -/

/-- An instruction that completes has written nothing but the blocks it owns. -/
theorem exec_putBack {i : Instr} {s t : State} (h : exec i s = .next t) : State.putBack i s t = s := by
  cases i <;> simp only [exec] at h
  case addi | add | sub => exact State.writeThenTrap_only h
  case addu | subu | and | or | xor | nor | slt | sltu | sll | srl | sra | sllv | srlv | srav | addiu | slti | sltiu
    | andi | ori | xori | lui | mfhi | mflo => cases h; exact State.setReg_only ..
  case mult | multu | div | divu | mthi | mtlo => cases h; rfl
  case j | jal | jr | jalr | beq | bne | blez | bgtz | bltz | bgez | bltzal | bgezal =>
    exact State.branchEntry_only (fun _ => by simp) h
  case lb | lbu | lh | lhu | lw | lwl | lwr => exact State.loadFrom_only h
  case sb | sh | sw => exact State.storeTo_only h
  case swl | swr => exact State.mergeTo_only h
  case syscall | brk => exact State.raise_only h
  case mfc0 => exact execMfc0_only h
  case mtc0 => exact execMtc0_only h
  case rfe => cases h; rfl
  case gp0Nop | gp0CacheFlushStub | gp0Interrupt | gp0MonoQuad | gp0ShadedTriangle | gp0ShadedQuad | gp0ImageLoad
    | gp0DrawMode | gp0TextureWindow | gp0DrawAreaTopLeft | gp0DrawAreaBottomRight | gp0DrawOffset | gp0MaskBits =>
    exact State.gp0Stream_only h
  case gp1SoftReset | gp1InterruptAcknowledge | gp1DisplayEnable | gp1DmaDirection | gp1DisplayOrigin
    | gp1HorizontalRange | gp1VerticalRange | gp1DisplayMode => exact State.gp1Stream_only h

/-- What no instruction writes: the parameters, the firmware, and what only the step itself writes. -/
theorem exec_fixed {i : Instr} {s t : State} (h : exec i s = .next t) :
    t.cfg = s.cfg ∧ t.bios = s.bios ∧ t.cia = s.cia ∧ t.inDelaySlot = s.inDelaySlot ∧ t.halted = s.halted := by
  have hf : State.putBack i s t = s := exec_putBack h
  exact ⟨(congrArg State.cfg hf :), (congrArg State.bios hf :), (congrArg State.cia hf :),
    (congrArg State.inDelaySlot hf :), (congrArg State.halted hf :)⟩

/-- Settles O13: the instruction's frame (`exec_putBack`), read off field by field. -/
theorem stateHasItsOwners : Obligations.StateHasItsOwners := by
  intro i s t h
  have hf : State.putBack i s t = s := exec_putBack h
  obtain ⟨-, -, hfixed⟩ := exec_fixed h
  refine ⟨fun hraise hrfe hmtc0 => ?_, fun hhi => ?_, fun hst => ?_, fun hst hcpu => ?_, fun hraise => ?_,
    fun hraise htr => ?_, hfixed⟩
  · have hcop := Instr.writesCop0_eq_false hraise hrfe hmtc0
    exact ⟨by simpa [State.putBack, hcop] using congrArg State.sr hf,
      by simpa [State.putBack, hcop] using congrArg State.cause hf,
      by simpa [State.putBack, hcop] using congrArg State.epc hf⟩
  · exact ⟨by simpa [State.putBack, hhi] using congrArg State.hi hf,
      by simpa [State.putBack, hhi] using congrArg State.lo hf⟩
  · exact ⟨by simpa [State.putBack, hst] using congrArg State.ram hf,
      by simpa [State.putBack, hst] using congrArg State.scratch hf,
      by simpa [State.putBack, hst] using congrArg State.dma hf,
      by simpa [State.putBack, hst] using congrArg State.devLog hf⟩
  · simpa [State.putBack, Instr.writesGpu, hst, hcpu] using congrArg State.gpu hf
  · simpa [State.putBack, hraise] using congrArg State.currentPc hf
  · exact ⟨by simpa [State.putBack, Instr.redirects, hraise, htr] using congrArg State.nextPc hf,
      by simpa [State.putBack, Instr.redirects, hraise, htr] using congrArg State.executedBranch hf⟩

end Sys2Proof.Machine
end

section
/-!
SUPPORT. What every step keeps: a property of the storage (parameters, memories, devices, log) that every store keeps
is kept by every step.  From it the invariant of a run (R60, R326, R51, R21), O10, and what no step undoes, O12.
-/

namespace Sys2Proof.Machine

/-! ## From stores to steps -/

/-- `P` looks at the storage only, not at the CPU: what one state has, every state with the same storage has. -/
def ReadsStorage (P : State → Prop) : Prop :=
  ∀ s t : State, { s with cfg := t.cfg, ram := t.ram, scratch := t.scratch, bios := t.bios, dma := t.dma, gpu := t.gpu,
                          devLog := t.devLog } = s → P s → P t

/-- Only stores and GPU commands write the storage, so what each store keeps every instruction keeps. -/
theorem StoreKeeps.execKeeps {P : State → Prop} (k : StoreKeeps P) (hP : ReadsStorage P) : ExecKeeps P where
  toStoreKeeps := k
  setReg s i v := hP s _ (by simp)
  setHiLo s _ _ := hP s _ rfl
  branch s := hP s _ rfl
  jump s _ := hP s _ rfl
  sr s _ := hP s _ rfl
  cause s _ := hP s _ rfl
  epc s _ := hP s _ rfl
  exception s _ := hP s _ rfl

/-- What every store keeps, every step keeps. -/
theorem StoreKeeps.step {P : State → Prop} (k : StoreKeeps P) (hP : ReadsStorage P) {s t : State} (hs : P s)
    (h : step s = .next t) : P t := by
  obtain ⟨-, w, i, u, -, -, hu, rfl⟩ := step_eq_next h
  have hpro : P s.prologue := hP s _ rfl hs
  exact hP u _ rfl ((k.execKeeps hP).exec hpro hu)

/-! ## Properties that do not look at the DMA registers nor at the log -/

/-- The offset of a DMA word (R315) is an aligned address of main memory, and its own offset there. -/
theorem ramOffset_physOf_ramWordMask (a : Word) :
    ramOffset (physOf (a &&& ramWordMask)) = (a &&& ramWordMask).toNat ∧ (a &&& ramWordMask).toNat % 4 = 0 := by
  have hle : (a &&& ramWordMask).toNat ≤ 0x1FFFFC := by
    rw [BitVec.toNat_and]; exact Nat.and_le_right
  have hlow : (a &&& ramWordMask) &&& 3 = 0#32 := by
    rw [BitVec.and_assoc, show ramWordMask &&& 3 = 0#32 from rfl, BitVec.and_zero]
  have hseg : (a &&& ramWordMask).extractLsb' 29 3 = 0 := by
    apply BitVec.eq_of_toNat_eq
    rw [BitVec.extractLsb'_toNat, Nat.shiftRight_eq_div_pow]
    show _ = 0
    omega
  have hphys : physOf (a &&& ramWordMask) = a &&& ramWordMask := by
    rw [physOf, hseg]; exact BitVec.and_allOnes
  constructor
  · rw [hphys, ramOffset_eq]; omega
  · exact (Nat.and_two_pow_sub_one_eq_mod _ 2).symm.trans (congrArg BitVec.toNat hlow)

/-- Completion as an update of the DMA registers and `dev_log` (R323, R324). -/
theorem dmaComplete_eq (n : ChannelId) (s : State) :
    dmaComplete n s = { s with dma := (dmaComplete n s).dma, devLog := (dmaComplete n s).devLog } := by
  unfold dmaComplete State.signalDma
  simp only
  split <;> rfl

/-- A property that looks neither at the DMA registers nor at `dev_log` is kept by every store when the memory writes
and the two GPU ports keep it. -/
theorem StoreKeeps.of_memory_and_ports {P : State → Prop}
    (hdma : ∀ s d l, P s → P { s with dma := d, devLog := l })
    (hram : ∀ s a n v, P s → a.toNat % n.bytes = 0 → P { s with ram := s.ram.writeLE (ramOffset (physOf a)) n v })
    (hscratch : ∀ s a n v, P s → a.toNat % n.bytes = 0 → regionOf s.cfg (physOf a) = .scratch →
      P { s with scratch := s.scratch.writeLE (scratchOffset s.cfg (physOf a)) n v })
    (hgp0 : ∀ s w g, P s → s.gpu.gp0 s.cfg w = .next g → P { s with gpu := g })
    (hgp1 : ∀ s w g, P s → s.gpu.gp1 s.cfg w = .next g → P { s with gpu := g }) : StoreKeeps P := by
  have hport0 : ∀ s w t, P s → s.gp0 w = .next t → P t := fun s w t hs h => by
    obtain ⟨g, hg, rfl⟩ := State.gp0_eq_next.1 h
    exact hgp0 s w g hs hg
  have hword : ∀ s a v, P s → P (s.setRamWord (a &&& ramWordMask) v) := fun s a v hs => by
    obtain ⟨hoff, hmod⟩ := ramOffset_physOf_ramWordMask a
    have := hram s (a &&& ramWordMask) .word v hs hmod
    rwa [hoff] at this
  have hdone : ∀ n s, P s → P (dmaComplete n s) := fun n s hs => by
    rw [dmaComplete_eq]
    exact hdma s _ _ hs
  exact {
    ram := hram
    scratch := hscratch
    log := fun s _ _ _ => hdma s s.dma _
    madr := fun s _ _ => hdma s _ s.devLog
    bcr := fun s _ _ => hdma s _ s.devLog
    chcr := fun s n v t hs h => chcrWrite_keeps hword hport0 (fun _ hs => hdma s _ s.devLog hs) (hdone n) hs h
    dpcr := fun s _ => hdma s _ s.devLog
    dicr := fun s _ => hdma s _ s.devLog
    gp0 := hport0
    gp1 := fun s w t hs h => by
      obtain ⟨g, hg, rfl⟩ := State.gp1_eq_next.1 h
      exact hgp1 s w g hs hg }

/-! ## The parts of the invariant -/

/-- Main memory and the scratchpad are canonical and inside their sizes; that the regions' bounds are multiples of 4
is what keeps an aligned store inside them (R73). -/
def State.RamWf (s : State) : Prop :=
  s.cfg.WellFormed ∧ (s.ram.wf ∧ s.ram.within Config.ramSize) ∧ (s.scratch.wf ∧ s.scratch.within Config.scratchSize)

theorem ramWf_readsStorage : ReadsStorage State.RamWf := fun s t h hs => by
  rw [← h] at hs
  exact hs

theorem ramWf_storeKeeps : StoreKeeps State.RamWf := by
  refine StoreKeeps.of_memory_and_ports (fun _ _ _ hs => hs) ?_ ?_ (fun _ _ _ hs _ => hs) (fun _ _ _ hs _ => hs)
  · rintro s a n v ⟨hc, ⟨hwf, hin⟩, hscr⟩ ha
    exact ⟨hc, ⟨Memory.wf_writeLE hwf _ n v, Memory.within_writeLE hin _ n v (ramOffset_bounds ha)⟩, hscr⟩
  · rintro s a n v ⟨hc, hram, hwf, hin⟩ ha hr
    obtain ⟨-, -, hbase, -⟩ := id hc
    have hend := region_bounds ha hbase (show Config.scratchSize % 4 = 0 by decide) (regionOf_scratch hr)
    exact ⟨hc, hram, Memory.wf_writeLE hwf _ n v, Memory.within_writeLE hin _ n v hend⟩

/-- The GPU's part of the invariant: R60 and R51. -/
def State.GpuInv (s : State) : Prop := s.gpu.BufferingInv ∧ s.gpu.ConstantBits s.cfg

theorem gpuInv_readsStorage : ReadsStorage State.GpuInv := fun s t h hs => by
  rw [← h] at hs
  exact hs

theorem gpuInv_storeKeeps : StoreKeeps State.GpuInv :=
  StoreKeeps.of_memory_and_ports (fun _ _ _ hs => hs) (fun _ _ _ _ hs _ => hs) (fun _ _ _ _ hs _ _ => hs)
    (fun _ _ _ ⟨hb, hc⟩ h => ⟨Gpu.bufferingInv_gp0 hb h, Gpu.constantBits_gp0 hc h⟩)
    (fun _ _ _ ⟨hb, hc⟩ h => ⟨Gpu.bufferingInv_gp1 hb h, Gpu.constantBits_gp1 hc h⟩)

/-- The DMA engine's part of the invariant: R326. -/
def State.DmaIdle (s : State) : Prop := s.dma.NoneActive

theorem dmaIdle_readsStorage : ReadsStorage State.DmaIdle := fun s t h hs => by
  rw [← h] at hs
  exact hs

/-- A channel stays inactive when its control word stays as it is. -/
theorem Dma.noneActive_congr {d d' : Dma} (h : ∀ n, (d'.channel n).chcr = (d.channel n).chcr) (hd : d.NoneActive) :
    d'.NoneActive := fun n => by rw [h n]; exact hd n

theorem dmaIdle_storeKeeps : StoreKeeps State.DmaIdle where
  ram _ _ _ _ hs _ := hs
  scratch _ _ _ _ hs _ _ := hs
  log _ _ _ _ hs := hs
  madr s n v hs := Dma.noneActive_congr (fun m => by
    rw [State.setMadr_dma, Dma.channel_setChannel]; split <;> simp [*, State.channel_eq]) hs
  bcr s n v hs := Dma.noneActive_congr (fun m => by
    rw [State.setBcr_dma, Dma.channel_setChannel]; split <;> simp [*, State.channel_eq]) hs
  chcr _ _ _ _ hs h := Dma.noneActive_chcrWrite hs h
  dpcr _ _ hs := hs
  dicr _ _ hs := hs
  gp0 s w t hs h := by obtain ⟨g, -, rfl⟩ := State.gp0_eq_next.1 h; exact hs
  gp1 s w t hs h := by obtain ⟨g, -, rfl⟩ := State.gp1_eq_next.1 h; exact hs

/-- No update writes the storage of `x[0]` (R21). -/
theorem regsZero_execKeeps : ExecKeeps fun s => s.regs[0] = 0 where
  toStoreKeeps := StoreKeeps.of_memory_and_ports (fun _ _ _ hs => hs) (fun _ _ _ _ hs _ => hs)
    (fun _ _ _ _ hs _ _ => hs) (fun _ _ _ hs _ => hs) (fun _ _ _ hs _ => hs)
  setReg s i v hs := (s.setReg_regs_zero i v).trans hs
  setHiLo _ _ _ hs := hs
  branch _ hs := hs
  jump _ _ hs := hs
  sr _ _ hs := hs
  cause _ _ hs := hs
  epc _ _ hs := hs
  exception _ _ hs := hs

/-! ## The invariant -/

/-- What no step writes. -/
theorem step_fixed {s t : State} (h : step s = .next t) : t.cfg = s.cfg ∧ t.bios = s.bios ∧ t.halted = s.halted := by
  obtain ⟨-, w, i, u, -, -, hu, rfl⟩ := step_eq_next h
  obtain ⟨hcfg, hbios, -, -, hhalted⟩ := exec_fixed hu
  exact ⟨hcfg, hbios, hhalted⟩

theorem step_executedBranch {s t : State} (h : step s = .next t) : t.executedBranch = false := by
  obtain ⟨-, w, i, u, -, -, -, rfl⟩ := step_eq_next h
  rfl

theorem step_regs_zero {s t : State} (hs : s.regs[0] = 0) (h : step s = .next t) : t.regs[0] = 0 := by
  obtain ⟨-, w, i, u, -, -, hu, rfl⟩ := step_eq_next h
  have hu0 : u.regs[0] = 0 := regsZero_execKeeps.exec (s := s.prologue) hs hu
  exact hu0

/-- Settles O10: each part of the invariant that speaks of the storage is kept by every store, so by every step. -/
theorem stepKeepsInvariant : Obligations.StepKeepsInvariant := by
  rintro s t ⟨hcfg, hhalted, -, hzero, ⟨hram, hscratch, hbios⟩, hbuf, hconst, hdma⟩ h
  obtain ⟨hcfg', hbios', hhalted'⟩ := step_fixed h
  obtain ⟨hwf, hram', hscratch'⟩ := ramWf_storeKeeps.step ramWf_readsStorage ⟨hcfg, hram, hscratch⟩ h
  obtain ⟨hbuf', hconst'⟩ := gpuInv_storeKeeps.step gpuInv_readsStorage ⟨hbuf, hconst⟩ h
  have hdma' : t.dma.NoneActive := dmaIdle_storeKeeps.step dmaIdle_readsStorage hdma h
  refine ⟨hwf, hhalted'.trans hhalted, step_executedBranch h, step_regs_zero hzero h, ⟨hram', hscratch', ?_⟩, hbuf',
    hconst', hdma'⟩
  rw [hbios', hcfg']
  exact hbios

end Sys2Proof.Machine
end

section
/-!
SUPPORT. What no step undoes, O12: the output lists grow at their end (R58), a pending DMA interrupt stays pending
(R46), the firmware and the parameters stay as they are (R35, R7).
-/

namespace Sys2Proof.Machine

/-! ## The renderer's events -/

theorem Gpu.out_emit (g : Gpu) (es : List GpuEvent) : g.out <+: (g.emit es).out := List.prefix_append _ _

theorem Gpu.out_dispatch {g g' : Gpu} (h : g.dispatch = .next g') : g.out <+: g'.out := by
  unfold Gpu.dispatch at h
  split at h <;> cases h
  · exact Gpu.out_emit ..
  · exact Gpu.out_emit ..
  · exact Gpu.out_emit ..
  · unfold Gpu.beginImageLoad
    simp only
    split <;> exact Gpu.out_emit ..

theorem Gpu.out_interruptCommand (c : Config) (g : Gpu) : (g.interruptCommand c).out = g.out := by
  unfold Gpu.interruptCommand
  split <;> rfl

/-- No word in Idle draws. -/
theorem Gpu.out_gp0Idle {c : Config} {g g' : Gpu} {w : Word} (h : g.gp0Idle c w = .next g') : g'.out = g.out := by
  unfold Gpu.gp0Idle at h
  split at h <;> cases h
  · rfl
  · rfl
  · exact Gpu.out_interruptCommand c g
  all_goals rfl

theorem Gpu.out_gp0Param {g g' : Gpu} {w : Word} (h : g.gp0Param w = .next g') : g.out <+: g'.out := by
  unfold Gpu.gp0Param at h
  simp only at h
  split at h
  · split at h
    · have hout := Gpu.out_dispatch h
      exact hout
    · cases h; exact List.prefix_rfl
  · cases h

theorem Gpu.out_gp0Texel (g : Gpu) (w : Word) : g.out <+: (g.gp0Texel w).out := by
  unfold Gpu.gp0Texel
  simp only
  split <;> exact Gpu.out_emit ..

/-- A GP0 word appends to the renderer's events. -/
theorem Gpu.out_gp0 {c : Config} {g g' : Gpu} {w : Word} (h : g.gp0 c w = .next g') : g.out <+: g'.out := by
  unfold Gpu.gp0 at h
  split at h
  · rw [Gpu.out_gp0Idle h]
  · exact Gpu.out_gp0Param h
  · cases h; exact Gpu.out_gp0Texel g w

/-- No GP1 word takes an event back; soft reset keeps them (R392). -/
theorem Gpu.out_gp1 {c : Config} {g g' : Gpu} {w : Word} (h : g.gp1 c w = .next g') : g.out <+: g'.out := by
  unfold Gpu.gp1 at h
  split at h <;> cases h <;> exact List.prefix_rfl

/-- The events `es` still stand at the beginning of the renderer's list. -/
def State.DrawnSince (es : List GpuEvent) (s : State) : Prop := es <+: s.gpu.out

theorem drawnSince_readsStorage (es : List GpuEvent) : ReadsStorage (State.DrawnSince es) := fun s t h hs => by
  rw [← h] at hs
  exact hs

theorem drawnSince_storeKeeps (es : List GpuEvent) : StoreKeeps (State.DrawnSince es) :=
  StoreKeeps.of_memory_and_ports (fun _ _ _ hs => hs) (fun _ _ _ _ hs _ => hs) (fun _ _ _ _ hs _ _ => hs)
    (fun _ _ _ hs h => hs.trans (Gpu.out_gp0 h)) (fun _ _ _ hs h => hs.trans (Gpu.out_gp1 h))

/-! ## The diagnostic log and the pending interrupt -/

/-- Every entry of `es` still stands at the log's beginning, and an interrupt that was pending is. -/
def State.LoggedSince (es : List DevEvent) (pending : Bool) (s : State) : Prop :=
  es <+: s.devLog ∧ (pending = true → s.dma.irqPending = true)

section

variable (es : List DevEvent) (pending : Bool)

theorem loggedSince_readsStorage : ReadsStorage (State.LoggedSince es pending) := fun s t h hs => by
  rw [← h] at hs
  exact hs

/-- Completion may append its interrupt to the log and set the pending bit, never clear it (R324). -/
theorem loggedSince_dmaComplete (n : ChannelId) {s : State} (hs : s.LoggedSince es pending) :
    (dmaComplete n s).LoggedSince es pending := by
  obtain ⟨hlog, -⟩ := id hs
  unfold dmaComplete State.signalDma
  simp only
  split
  · exact ⟨hlog.trans (List.prefix_append _ _), fun _ => rfl⟩
  · exact hs

theorem loggedSince_gp0 {s t : State} {w : Word} (hs : s.LoggedSince es pending) (h : s.gp0 w = .next t) :
    t.LoggedSince es pending := by
  obtain ⟨g, -, rfl⟩ := State.gp0_eq_next.1 h
  exact hs

theorem loggedSince_storeKeeps : StoreKeeps (State.LoggedSince es pending) where
  ram _ _ _ _ hs _ := hs
  scratch _ _ _ _ hs _ _ := hs
  log _ _ _ _ := fun ⟨hlog, hirq⟩ => ⟨hlog.trans (List.prefix_append _ _), hirq⟩
  madr _ _ _ hs := hs
  bcr _ _ _ hs := hs
  chcr _ _ _ _ hs h :=
    chcrWrite_keeps (fun _ _ _ hs => hs) (fun _ _ _ => loggedSince_gp0 es pending) (fun _ hs => hs)
      (fun _ => loggedSince_dmaComplete es pending _) hs h
  dpcr _ _ hs := hs
  dicr _ _ hs := hs
  gp0 _ _ _ hs h := loggedSince_gp0 es pending hs h
  gp1 _ _ _ hs h := by obtain ⟨g, -, rfl⟩ := State.gp1_eq_next.1 h; exact hs

end

/-- Settles O12: every store appends to the output lists and leaves a pending interrupt pending, so every step does. -/
theorem whatNoStepUndoes : Obligations.WhatNoStepUndoes := by
  intro s t h
  obtain ⟨hcfg, hbios, -⟩ := step_fixed h
  obtain ⟨es, hout⟩ : s.gpu.out <+: t.gpu.out :=
    (drawnSince_storeKeeps s.gpu.out).step (drawnSince_readsStorage _) List.prefix_rfl h
  obtain ⟨⟨es', hlog⟩, hirq⟩ := (loggedSince_storeKeeps s.devLog s.dma.irqPending).step (loggedSince_readsStorage _ _)
    ⟨List.prefix_rfl, id⟩ h
  exact ⟨hbios, hcfg, ⟨es, hout.symm⟩, ⟨es', hlog.symm⟩, hirq⟩

end Sys2Proof.Machine
end

section
/-!
SUPPORT. Reset: the values R65 gives, O7, and that they meet the invariant of a run, O9.
-/

namespace Sys2Proof.Machine

@[simp] theorem Dma.channel_reset (n : ChannelId) : Dma.reset.channel n = Channel.reset := by
  simp [Dma.channel, Dma.reset]

/-- Settles O7: every value but those of the two register files is a field of the reset state. -/
theorem resetValues : Obligations.ResetValues := by
  refine ⟨fun c image => ?_, rfl, rfl, rfl, rfl, rfl, rfl, rfl⟩
  have hchannel (n : ChannelId) : (State.resetWith c image).channel n = Channel.reset := Dma.channel_reset n
  refine ⟨rfl, rfl, rfl, rfl, rfl, rfl, rfl, rfl, rfl, rfl, rfl, fun n => ?_, ?_⟩
  · rw [hchannel]; exact ⟨rfl, rfl, rfl⟩
  · simp [State.resetWith, Dma.reset, Gpu.reset]

/-- A word that misses a mask lies in its complement. -/
theorem and_not_eq_self {x m : Word} (h : x &&& m = 0) : x &&& ~~~m = x := by
  calc x &&& ~~~m = (x &&& m) ||| (x &&& ~~~m) := by rw [h]; simp
    _ = x &&& (m ||| ~~~m) := BitVec.and_or_distrib_left.symm
    _ = x := by rw [BitVec.or_not_self, BitVec.and_allOnes]

theorem Memory.wf_nil : Memory.wf [] := ⟨.nil, nofun⟩

/-- Reset meets the invariant for all well-formed parameters and images (R65). -/
theorem State.inv_resetWith {c : Config} {image : Memory} (hc : c.WellFormed) (hwf : image.wf)
    (hin : image.within c.bios.size) : (State.resetWith c image).Inv := by
  obtain ⟨-, -, -, -, -, hready⟩ := id hc
  have hdma : Dma.reset.NoneActive := fun n => by rw [Dma.channel_reset]; rfl
  exact ⟨hc, rfl, rfl, rfl, ⟨⟨Memory.wf_nil, nofun⟩, ⟨Memory.wf_nil, nofun⟩, hwf, hin⟩,
    Gpu.bufferingInv_idle rfl rfl rfl, and_not_eq_self hready, hdma⟩

theorem wellFormed_default : Config.default.WellFormed := by decide

/-- Settles O9: the memories are empty or given, the ports idle, the channels zero. -/
theorem resetHasInvariant : Obligations.ResetHasInvariant :=
  ⟨State.inv_resetWith wellFormed_default Memory.wf_nil nofun, fun _ _ => State.inv_resetWith⟩

end Sys2Proof.Machine
end

section
/-!
SUPPORT. The address space: physical addresses as numbers, O15; what the Router answers in each region; alignment, O17.
-/

namespace Sys2Proof.Machine

/-! ## Segment masking (R71) -/

/-- The physical address as a number: bit 31 masked off in segment 4, bits 31:29 in segment 5. -/
theorem physOf_toNat (a : Word) :
    (physOf a).toNat =
      if a.toNat / 2 ^ 29 = 4 then a.toNat % 2 ^ 31 else if a.toNat / 2 ^ 29 = 5 then a.toNat % 2 ^ 29 else a.toNat := by
  have htop : (a.extractLsb' 29 3).toNat = a.toNat / 2 ^ 29 := by
    rw [BitVec.extractLsb'_toNat, Nat.shiftRight_eq_div_pow, Nat.mod_eq_of_lt (by omega)]
  unfold physOf segMask
  rw [htop, BitVec.toNat_and]
  split
  · next h => rw [if_pos h]; exact Nat.and_two_pow_sub_one_eq_mod a.toNat 31
  · next h => rw [if_neg (by omega), if_pos h]; exact Nat.and_two_pow_sub_one_eq_mod a.toNat 29
  · next h4 h5 =>
    rw [if_neg h4, if_neg h5]
    exact (Nat.and_two_pow_sub_one_eq_mod a.toNat 32).trans (Nat.mod_eq_of_lt a.isLt)

/-- Settles O15: the top three bits of an address are its quotient by 2^29. -/
theorem segmentMasking : Obligations.SegmentMasking := by
  intro a
  have hphys := physOf_toNat a
  refine ⟨fun h => BitVec.eq_of_toNat_eq ?_, fun h1 h2 => ?_, fun h1 h2 => ?_, fun h => BitVec.eq_of_toNat_eq ?_⟩ <;>
    rw [hphys] <;> split_ifs <;> omega

/-! ## What the Router answers (R80, R81), region by region -/

section

variable {s : State} {a : Word} {n : Width} (v : Word)

theorem State.memRead_misaligned (h : a.toNat % n.bytes ≠ 0) : s.memRead a n = .error (.misaligned a n) := by
  simp [State.memRead, isMisaligned, h]

theorem State.memWrite_misaligned (h : a.toNat % n.bytes ≠ 0) : s.memWrite a n v = stopped s (.misaligned a n) := by
  simp [State.memWrite, isMisaligned, h, State.stop_eq]

variable (ha : a.toNat % n.bytes = 0)
include ha

theorem State.memRead_ram (h : regionOf s.cfg (physOf a) = .ram) :
    s.memRead a n = .ok (s.ram.readLE (ramOffset (physOf a)) n) := by
  simp [State.memRead, isMisaligned_eq_false.2 ha, h]

theorem State.memRead_exp1 (h : regionOf s.cfg (physOf a) = .exp1) :
    s.memRead a n = .ok (truncWidth n s.cfg.expReadStub) := by
  simp [State.memRead, isMisaligned_eq_false.2 ha, h]

theorem State.memRead_scratch (h : regionOf s.cfg (physOf a) = .scratch) :
    s.memRead a n = .ok (s.scratch.readLE (scratchOffset s.cfg (physOf a)) n) := by
  simp [State.memRead, isMisaligned_eq_false.2 ha, h]

theorem State.memRead_io (h : regionOf s.cfg (physOf a) = .io) : s.memRead a n = s.devRead (physOf a) n := by
  simp [State.memRead, isMisaligned_eq_false.2 ha, h]

theorem State.memRead_bios (h : regionOf s.cfg (physOf a) = .bios) :
    s.memRead a n = .ok (s.bios.readLE (biosOffset s.cfg (physOf a)) n) := by
  simp [State.memRead, isMisaligned_eq_false.2 ha, h]

theorem State.memRead_outside (h : regionOf s.cfg (physOf a) = .outside) :
    s.memRead a n = .error (.unmappedAddress a) := by
  simp [State.memRead, isMisaligned_eq_false.2 ha, h]

theorem State.memWrite_ram (h : regionOf s.cfg (physOf a) = .ram) :
    s.memWrite a n v = .next { s with ram := s.ram.writeLE (ramOffset (physOf a)) n v } := by
  simp [State.memWrite, isMisaligned_eq_false.2 ha, h]

theorem State.memWrite_exp1 (h : regionOf s.cfg (physOf a) = .exp1) : s.memWrite a n v = .next (s.logDropped a n v) := by
  simp [State.memWrite, isMisaligned_eq_false.2 ha, h]

theorem State.memWrite_scratch (h : regionOf s.cfg (physOf a) = .scratch) :
    s.memWrite a n v = .next { s with scratch := s.scratch.writeLE (scratchOffset s.cfg (physOf a)) n v } := by
  simp [State.memWrite, isMisaligned_eq_false.2 ha, h]

theorem State.memWrite_io (h : regionOf s.cfg (physOf a) = .io) : s.memWrite a n v = s.devWrite (physOf a) n v := by
  simp [State.memWrite, isMisaligned_eq_false.2 ha, h]

theorem State.memWrite_bios (h : regionOf s.cfg (physOf a) = .bios) :
    s.memWrite a n v = stopped s (.writeToFirmware a (physOf a)) := by
  simp [State.memWrite, isMisaligned_eq_false.2 ha, h, State.stop_eq]

theorem State.memWrite_outside (h : regionOf s.cfg (physOf a) = .outside) :
    s.memWrite a n v = stopped s (.unmappedAddress a) := by
  simp [State.memWrite, isMisaligned_eq_false.2 ha, h, State.stop_eq]

end

/-- A byte access is always aligned. -/
theorem byte_aligned (a : Word) : a.toNat % Width.byte.bytes = 0 := Nat.mod_one _

/-! ## Alignment (R77) -/

/-- A device read stops for its width only (R93). -/
theorem State.devRead_ne_misaligned (s : State) (p b : Word) (n m : Width) :
    s.devRead p n ≠ .error (.misaligned b m) := by
  unfold State.devRead
  split
  · split <;> simp
  · simp

/-- An aligned read may stop, but not for its alignment. -/
theorem State.memRead_ne_misaligned (s : State) {a : Word} {n : Width} (ha : a.toNat % n.bytes = 0) (b : Word)
    (m : Width) : s.memRead a n ≠ .error (.misaligned b m) := by
  cases hr : regionOf s.cfg (physOf a)
  case io => rw [State.memRead_io ha hr]; exact s.devRead_ne_misaligned _ b n m
  case ram => simp [State.memRead_ram ha hr]
  case exp1 => simp [State.memRead_exp1 ha hr]
  case scratch => simp [State.memRead_scratch ha hr]
  case bios => simp [State.memRead_bios ha hr]
  case outside => simp [State.memRead_outside ha hr]

/-- The word that holds an address begins at the address rounded down to a multiple of 4. -/
theorem alignedWord_toNat (a : Word) : (alignedWord a).toNat = 4 * (a.toNat / 4) := by
  have hshift : alignedWord a = a >>> 2 <<< 2 := (BitVec.shiftLeft_ushiftRight (x := a) (n := 2)).symm
  rw [hshift, BitVec.toNat_shiftLeft, BitVec.toNat_ushiftRight, Nat.shiftRight_eq_div_pow, Nat.shiftLeft_eq]
  omega

theorem alignedWord_mod (a : Word) : (alignedWord a).toNat % 4 = 0 := by
  rw [alignedWord_toNat]; exact Nat.mul_mod_right 4 _

theorem alignedWord_of_aligned {a : Word} (h : a.toNat % 4 = 0) : alignedWord a = a :=
  BitVec.eq_of_toNat_eq (by rw [alignedWord_toNat]; omega)

/-- A fetch that stops is what the whole step does (R410). -/
theorem step_of_fetch_error {s : State} {r : FatalReason} (hrun : s.halted = none)
    (h : s.memRead s.currentPc .word = .error r) : step s = stopped s r := by
  simp [step, hrun, State.cycle, State.fetch, h, State.stop_eq]

/-- Settles O17: the test for alignment comes first, and only it gives the stop. -/
theorem misalignedAccessStops : Obligations.MisalignedAccessStops := by
  intro s a v
  exact ⟨fun n h => ⟨State.memRead_misaligned h, State.memWrite_misaligned v h⟩,
    fun b n => s.memRead_ne_misaligned (byte_aligned a) b n,
    fun b n => s.memRead_ne_misaligned (alignedWord_mod a) b n,
    fun hrun h => step_of_fetch_error hrun (State.memRead_misaligned h)⟩

end Sys2Proof.Machine
end

section
/-!
SUPPORT. Little-endian values, O16, and the memory map of the default parameters, O18.
-/

namespace Sys2Proof.Machine

/-! ## The value of consecutive bytes (R75) -/

/-- The number two bit strings make together. -/
theorem toNat_append_eq_add {k m : Nat} (x : BitVec k) (y : BitVec m) :
    (x ++ y).toNat = y.toNat + 2 ^ m * x.toNat := by
  rw [BitVec.toNat_append, ← Nat.shiftLeft_add_eq_or_of_lt y.isLt, Nat.shiftLeft_eq, Nat.mul_comm, Nat.add_comm]

namespace Memory

theorem toNat_readLE_byte (m : Memory) (o : Nat) : (m.readLE o .byte).toNat = (m.read o).toNat :=
  BitVec.toNat_setWidth_of_le (by decide)

theorem toNat_readLE_half (m : Memory) (o : Nat) :
    (m.readLE o .half).toNat = (m.read o).toNat + 2 ^ 8 * (m.read (o + 1)).toNat :=
  (BitVec.toNat_setWidth_of_le (by decide)).trans (toNat_append_eq_add ..)

theorem toNat_readLE_word (m : Memory) (o : Nat) :
    (m.readLE o .word).toNat = (m.read o).toNat + 2 ^ 8 * (m.read (o + 1)).toNat
      + 2 ^ 16 * (m.read (o + 2)).toNat + 2 ^ 24 * (m.read (o + 3)).toNat := by
  simp only [readLE, wordOfBytes, toNat_append_eq_add]
  omega

/-! ## Narrow reads of a stored word -/

variable {m : Memory} (hm : m.wf) (o : Nat) (v : Word)
include hm

theorem readLE_byte_writeLE_word {k : Nat} (hk : k < 4) :
    (m.writeLE o .word v).readLE (o + k) .byte = (v.extractLsb' (8 * k) 8).setWidth 32 :=
  congrArg (BitVec.setWidth 32) (read_writeLE m hm o .word v k hk)

theorem readLE_half_writeLE_word {j : Nat} (hj : j < 2) :
    (m.writeLE o .word v).readLE (o + 2 * j) .half = (v.extractLsb' (16 * j) 16).setWidth 32 := by
  have hbytes : byteOf v (2 * j + 1) ++ byteOf v (2 * j) = v.extractLsb' (16 * j) 16 := by
    rw [show 16 * j = 8 * (2 * j) by omega]
    exact BitVec.extractLsb'_append_extractLsb'_eq_extractLsb' (by omega)
  rw [← hbytes, ← read_writeLE m hm o .word v (2 * j) (show _ < 4 by omega),
    ← read_writeLE m hm o .word v (2 * j + 1) (show _ < 4 by omega)]
  rfl

end Memory

/-! ## The bytes of an aligned word lie together (R71, R73) -/

theorem physOf_add_toNat {a : Word} (ha : a.toNat % 4 = 0) {k : Nat} (hk : k < 4) :
    (physOf (a + BitVec.ofNat 32 k)).toNat = (physOf a).toNat + k := by
  have hadd : (a + BitVec.ofNat 32 k).toNat = a.toNat + k := by
    rw [BitVec.toNat_add, BitVec.toNat_ofNat]; omega
  rw [physOf_toNat, physOf_toNat, hadd]
  split_ifs <;> omega

theorem inRegion_iff {r : Region} {p : Word} :
    inRegion r p = true ↔ r.base ≤ p.toNat ∧ p.toNat < r.base + r.size := decide_eq_true_iff

/-- A range with bounds that are multiples of 4 holds all bytes of a word or none. -/
theorem inRegion_congr {r : Region} (hr : r.base % 4 = 0 ∧ r.size % 4 = 0) {p q : Word}
    (h : p.toNat / 4 = q.toNat / 4) : inRegion r p = inRegion r q := by
  unfold inRegion
  rw [decide_eq_decide]
  omega

/-- All bytes of a word fall in the same region (R73). -/
theorem regionOf_congr {c : Config} (hc : c.WellFormed) {p q : Word} (h : p.toNat / 4 = q.toNat / 4) :
    regionOf c p = regionOf c q := by
  obtain ⟨hram, hexp, hscratch, hio, hbios, -⟩ := hc
  have hsize : Config.scratchSize % 4 = 0 := by decide
  have hpad : inRegion ⟨c.scratchBase, Config.scratchSize⟩ p = inRegion ⟨c.scratchBase, Config.scratchSize⟩ q :=
    inRegion_congr ⟨hscratch, hsize⟩ h
  simp only [regionOf, inRegion_congr hram h, inRegion_congr hexp h, hpad, inRegion_congr hio h,
    inRegion_congr hbios h]

theorem regionOf_physOf_add {c : Config} (hc : c.WellFormed) {a : Word} (ha : a.toNat % 4 = 0) {k : Nat} (hk : k < 4) :
    regionOf c (physOf (a + BitVec.ofNat 32 k)) = regionOf c (physOf a) :=
  regionOf_congr hc (by
    have hmod := physOf_toNat_mod a
    rw [physOf_add_toNat ha hk]
    omega)

section

variable {s : State} {a : Word} {n : Width} (hc : s.cfg.WellFormed) (ha : a.toNat % 4 = 0) {k : Nat} (hk : k < 4)
  (hn : k % n.bytes = 0)

include ha hk hn in
theorem aligned_add : (a + BitVec.ofNat 32 k).toNat % n.bytes = 0 := by
  rw [BitVec.toNat_add, BitVec.toNat_ofNat]
  cases n <;> simp only [Width.bytes] at * <;> omega

include hc ha hk hn

/-- A read inside an aligned word of main memory looks at the word's own offset. -/
theorem State.memRead_add_ram (hr : regionOf s.cfg (physOf a) = .ram) :
    s.memRead (a + BitVec.ofNat 32 k) n = .ok (s.ram.readLE (ramOffset (physOf a) + k) n) := by
  have hoff : ramOffset (physOf (a + BitVec.ofNat 32 k)) = ramOffset (physOf a) + k := by
    have hmod := physOf_toNat_mod a
    rw [ramOffset_eq, ramOffset_eq, physOf_add_toNat ha hk]
    omega
  rw [State.memRead_ram (aligned_add ha hk hn) ((regionOf_physOf_add hc ha hk).trans hr), hoff]

/-- The same in the scratchpad. -/
theorem State.memRead_add_scratch (hr : regionOf s.cfg (physOf a) = .scratch) :
    s.memRead (a + BitVec.ofNat 32 k) n = .ok (s.scratch.readLE (scratchOffset s.cfg (physOf a) + k) n) := by
  have hoff : scratchOffset s.cfg (physOf (a + BitVec.ofNat 32 k)) = scratchOffset s.cfg (physOf a) + k := by
    have hbase : s.cfg.scratchBase ≤ (physOf a).toNat := (inRegion_bounds (regionOf_scratch hr)).1
    unfold scratchOffset
    rw [physOf_add_toNat ha hk]
    omega
  rw [State.memRead_scratch (aligned_add ha hk hn) ((regionOf_physOf_add hc ha hk).trans hr), hoff]

end

/-- After a word store to main memory or the scratchpad, every read inside the word looks at the bytes stored. -/
theorem memRead_of_memWrite_word {s t : State} {a v : Word} (hc : s.cfg.WellFormed) (hwf : s.MemoriesWf)
    (h : s.memWrite a .word v = .next t)
    (hr : regionOf s.cfg (physOf a) = .ram ∨ regionOf s.cfg (physOf a) = .scratch) :
    ∃ (m : Memory) (o : Nat), m.wf ∧ ∀ (k : Nat) (n : Width), k < 4 → k % n.bytes = 0 →
      t.memRead (a + BitVec.ofNat 32 k) n = .ok ((m.writeLE o .word v).readLE (o + k) n) := by
  obtain ⟨hmis, -⟩ := State.memWrite_eq_next h
  have ha : a.toNat % 4 = 0 := isMisaligned_eq_false.1 hmis
  obtain ⟨⟨hram, -⟩, ⟨hscratch, -⟩, -⟩ := hwf
  rcases hr with hr | hr
  · rw [State.memWrite_ram v ha hr] at h
    cases h
    exact ⟨s.ram, ramOffset (physOf a), hram, fun k n hk hn =>
      State.memRead_add_ram (s := { s with ram := s.ram.writeLE (ramOffset (physOf a)) .word v }) hc ha hk hn hr⟩
  · rw [State.memWrite_scratch v ha hr] at h
    cases h
    exact ⟨s.scratch, scratchOffset s.cfg (physOf a), hscratch, fun k n hk hn =>
      State.memRead_add_scratch (s := { s with scratch := s.scratch.writeLE (scratchOffset s.cfg (physOf a)) .word v })
        hc ha hk hn hr⟩

/-- Settles O16: the reads after the store look at the bytes stored, which are the word's. -/
theorem littleEndian : Obligations.LittleEndian := by
  refine ⟨fun m o => ⟨m.toNat_readLE_byte o, m.toNat_readLE_half o, m.toNat_readLE_word o⟩, ?_⟩
  intro s t a v hc hwf h hr
  obtain ⟨m, o, hm, hread⟩ := memRead_of_memWrite_word hc hwf h hr
  refine ⟨?_, fun k => ?_, fun j => ?_⟩
  · have hword := hread 0 .word (by decide) (by decide)
    rwa [BitVec.add_zero, Nat.add_zero, Memory.readLE_writeLE_word m hm] at hword
  · rw [hread k .byte k.isLt (Nat.mod_one _), Memory.readLE_byte_writeLE_word hm o v k.isLt]
  · rw [hread (2 * j) .half (by omega) (Nat.mul_mod_right 2 _), Memory.readLE_half_writeLE_word hm o v j.isLt]

/-! ## The map of the default parameters (R7, R73) -/

/-- The default ranges in the order of region decode. -/
theorem regionOf_default (p : Word) :
    regionOf Config.default p =
      if p.toNat < 0x00800000 then .ram
      else if 0x1F000000 ≤ p.toNat ∧ p.toNat < 0x1F800000 then .exp1
      else if 0x1F800000 ≤ p.toNat ∧ p.toNat < 0x1F800400 then .scratch
      else if 0x1F801000 ≤ p.toNat ∧ p.toNat < 0x1F803000 then .io
      else if 0x1FC00000 ≤ p.toNat ∧ p.toNat < 0x1FC80000 then .bios
      else .outside := by
  simp [regionOf, inRegion_iff, Config.default, Config.scratchSize]

/-- Settles O18: the region of each address, and what the Router answers there. -/
theorem memoryMap : Obligations.MemoryMap := by
  intro s a v hcfg
  dsimp only
  have hregion : regionOf s.cfg (physOf a) = _ := hcfg ▸ regionOf_default (physOf a)
  refine ⟨fun h => ?_, fun h1 h2 => ?_, fun h1 h2 => ?_, fun h n ha => ?_⟩
  · have hr : regionOf s.cfg (physOf a) = .ram := by rw [hregion, if_pos h]
    rw [State.memRead_ram (byte_aligned a) hr, ramOffset_eq]; rfl
  · have hr : regionOf s.cfg (physOf a) = .scratch := by simp (disch := omega) only [hregion, if_pos, if_neg]
    rw [State.memRead_scratch (byte_aligned a) hr, hcfg]; rfl
  · have hr : regionOf s.cfg (physOf a) = .bios := by simp (disch := omega) only [hregion, if_pos, if_neg]
    rw [State.memRead_bios (byte_aligned a) hr, hcfg]; rfl
  · have hr : regionOf s.cfg (physOf a) = .outside := by simp (disch := omega) only [hregion, if_neg]
    refine ⟨State.memRead_outside ha hr, State.memWrite_outside v ha hr, ?_⟩
    rintro hrun rfl rfl
    exact step_of_fetch_error hrun (State.memRead_outside ha hr)

end Sys2Proof.Machine
end

section
/-!
SUPPORT. The firmware, the expansion stub and the device window: which register an address names (R90, R91), O19, O20.
-/

namespace Sys2Proof.Machine

/-! ## The register at an address -/

theorem DevReg.mem_all (r : DevReg) : r ∈ DevReg.all := by
  cases r <;> simp [DevReg.all]

/-- No two registers have the same address (R91). -/
theorem DevReg.addr_injective {r r' : DevReg} (h : r.addr = r'.addr) : r = r' := by
  have hnodup : (DevReg.all.map DevReg.addr).Nodup := by decide
  exact List.inj_on_of_nodup_map hnodup r.mem_all r'.mem_all h

/-- The register that holds a byte is the one with the address of the byte's word (R90). -/
theorem devRegAt_eq_some {p : Word} {r : DevReg} : devRegAt p = some r ↔ r.addr = alignedWord p := by
  have hfound {r'} (h : devRegAt p = some r') : r'.addr = alignedWord p := by
    exact eq_of_beq (List.find?_some (p := fun r : DevReg => r.addr == alignedWord p) h)
  refine ⟨hfound, fun h => ?_⟩
  cases hr : devRegAt p with
  | none => exact absurd (beq_iff_eq.2 h) (List.find?_eq_none.1 hr r r.mem_all)
  | some r' => rw [DevReg.addr_injective ((hfound hr).trans h.symm)]

theorem devRegAt_eq_none {p : Word} : devRegAt p = none ↔ ∀ r : DevReg, r.addr ≠ alignedWord p := by
  simp only [Option.eq_none_iff_forall_ne_some, ne_eq, devRegAt_eq_some]

/-- The address of a channel's register is its base and 16 bytes for each channel before it (R91). -/
theorem channelAddr_eq (base k : Nat) :
    BitVec.ofNat 32 base + 0x10 * BitVec.ofNat 32 k = BitVec.ofNat 32 (base + 0x10 * k) := by
  rw [BitVec.ofNat_add, BitVec.ofNat_mul]; rfl

/-- The addresses of the mapped registers: three for each channel, and four more (R91). -/
theorem exists_addr_eq_iff {base : Word} :
    (∃ r : DevReg, r.addr = base) ↔
      (∃ k j : Nat, k < 7 ∧ j < 3 ∧ base = BitVec.ofNat 32 (0x1F801080 + 0x10 * k + 4 * j))
        ∨ base = 0x1F8010F0 ∨ base = 0x1F8010F4 ∨ base = 0x1F801810 ∨ base = 0x1F801814 := by
  constructor
  · rintro ⟨r, rfl⟩
    cases r with
    | madr n => exact .inl ⟨n, 0, n.isLt, by decide, channelAddr_eq 0x1F801080 n⟩
    | bcr n => exact .inl ⟨n, 1, n.isLt, by decide, by rw [Nat.add_right_comm]; exact channelAddr_eq 0x1F801084 n⟩
    | chcr n => exact .inl ⟨n, 2, n.isLt, by decide, by rw [Nat.add_right_comm]; exact channelAddr_eq 0x1F801088 n⟩
    | dpcr | dicr | gpuPort0 | gpuPort1 => right; decide
  · rintro (⟨k, j, hk, hj, rfl⟩ | rfl | rfl | rfl | rfl)
    · rw [Nat.add_right_comm]
      obtain rfl | rfl | rfl : j = 0 ∨ j = 1 ∨ j = 2 := by omega
      · exact ⟨.madr ⟨k, hk⟩, channelAddr_eq 0x1F801080 k⟩
      · exact ⟨.bcr ⟨k, hk⟩, channelAddr_eq 0x1F801084 k⟩
      · exact ⟨.chcr ⟨k, hk⟩, channelAddr_eq 0x1F801088 k⟩
    · exact ⟨.dpcr, rfl⟩
    · exact ⟨.dicr, rfl⟩
    · exact ⟨.gpuPort0, rfl⟩
    · exact ⟨.gpuPort1, rfl⟩

/-! ## Device accesses (R90, R93) -/

section

variable {s : State} {p : Word} {n : Width} (v : Word)

theorem State.devRead_unmapped (h : devRegAt p = none) : s.devRead p n = .ok 0 := by
  simp [State.devRead, h]

theorem State.devWrite_unmapped (h : devRegAt p = none) : s.devWrite p n v = .next (s.logDropped p n v) := by
  simp [State.devWrite, h]

variable {r : DevReg} (h : devRegAt p = some r)
include h

theorem State.devRead_word : s.devRead p .word = .ok (s.devRegRead r) := by
  simp [State.devRead, h]

theorem State.devWrite_word : s.devWrite p .word v = s.devRegWrite r v := by
  simp [State.devWrite, h]

theorem State.devRead_narrow (hn : n ≠ .word) : s.devRead p n = .error (.unsupportedWidth p n) := by
  simp [State.devRead, h, hn]

theorem State.devWrite_narrow (hn : n ≠ .word) : s.devWrite p n v = stopped s (.unsupportedWidth p n) := by
  simp [State.devWrite, h, hn, State.stop_eq]

end

/-- The low bytes of a value, as a number. -/
theorem truncWidth_eq (n : Width) (v : Word) : truncWidth n v = BitVec.ofNat 32 (v.toNat % 2 ^ (8 * n.bytes)) := by
  apply BitVec.eq_of_toNat_eq
  rw [BitVec.toNat_ofNat]
  cases n <;> simp only [truncWidth, Width.bytes, BitVec.toNat_and]
  · exact (Nat.and_two_pow_sub_one_eq_mod _ 8).trans (by omega)
  · exact (Nat.and_two_pow_sub_one_eq_mod _ 16).trans (by omega)
  · omega

/-- Settles O19: the Router's answer in each region; in the device window, by whether a register holds the address. -/
theorem firmwareAndStubs : Obligations.FirmwareAndStubs := by
  intro s a v n ha
  refine ⟨State.memWrite_bios v ha, fun hr => ⟨?_, State.memWrite_exp1 v ha hr⟩, fun hr => ?_⟩
  · rw [State.memRead_exp1 ha hr, truncWidth_eq]
  intro base mapped
  rw [State.memRead_io ha hr, State.memWrite_io v ha hr]
  have hmapped : mapped ↔ ∃ r : DevReg, r.addr = alignedWord (physOf a) := exists_addr_eq_iff.symm
  refine ⟨fun h => ?_, fun h hn => ?_⟩
  · have hnone : devRegAt (physOf a) = none := devRegAt_eq_none.2 fun r hr => h (hmapped.2 ⟨r, hr⟩)
    exact ⟨State.devRead_unmapped hnone, State.devWrite_unmapped v hnone⟩
  · obtain ⟨r, hr⟩ := hmapped.1 h
    have hsome := devRegAt_eq_some.2 hr
    exact ⟨State.devRead_narrow hsome hn, State.devWrite_narrow v hsome hn⟩

/-- A 32-bit access at a register's address is an access to that register. -/
theorem State.access_devReg {s : State} {a : Word} (ha : a.toNat % 4 = 0) (hr : regionOf s.cfg (physOf a) = .io)
    (r : DevReg) (hp : physOf a = r.addr) (v : Word) :
    s.memRead a .word = .ok (s.devRegRead r) ∧ s.memWrite a .word v = s.devRegWrite r v := by
  have hat : devRegAt (physOf a) = some r :=
    devRegAt_eq_some.2 (hp.symm.trans (alignedWord_of_aligned ((physOf_toNat_mod a).trans ha)).symm)
  exact ⟨(State.memRead_io ha hr).trans (State.devRead_word hat),
    (State.memWrite_io v ha hr).trans (State.devWrite_word v hat)⟩

/-- Settles O20: each address names its register, and the accesses are that register's. -/
theorem deviceRegisters : Obligations.DeviceRegisters := by
  intro s a v ha hr
  have haccess (r : DevReg) (hp : physOf a = r.addr) := State.access_devReg ha hr r hp v
  refine ⟨fun n hp => ?_, fun n hp => haccess (.bcr n) (hp.trans (channelAddr_eq _ _).symm),
    fun n hp => haccess (.chcr n) (hp.trans (channelAddr_eq _ _).symm), haccess .dpcr, haccess .dicr,
    haccess .gpuPort0, haccess .gpuPort1⟩
  obtain ⟨hread, hwrite⟩ := haccess (.madr n) (hp.trans (channelAddr_eq _ _).symm)
  have hlow : v.extractLsb' 0 24 = v.setWidth 24 := BitVec.setWidth_eq_extractLsb' (by decide) |>.symm
  exact ⟨hread, by rw [hwrite, State.devRegWrite, hlow]; rfl⟩

end Sys2Proof.Machine
end

section
/-!
SUPPORT. The rows of the opcode table (R135): the key bits of a word are its key fields (R126 to R130, R352, R390),
and a word that meets a row is decoded as that row's instruction, its operands the word's fields.
-/

namespace Sys2Proof

/-! ## A word put together from its fields (R121 to R124) -/

theorem rWord_fields (w : Word) :
    rWord (opField w) (rsField w) (rtField w) (rdField w) (shamtField w) (functField w) = w := by
  unfold rWord opField rsField rtField rdField shamtField functField
  iterate 5 rw [BitVec.extractLsb'_append_extractLsb'_eq_extractLsb' (by decide)]
  exact extractLsb'_whole w

theorem iWord_fields (w : Word) : iWord (opField w) (rsField w) (rtField w) (immField w) = w := by
  unfold iWord opField rsField rtField immField
  iterate 3 rw [BitVec.extractLsb'_append_extractLsb'_eq_extractLsb' (by decide)]
  exact extractLsb'_whole w

theorem gpuWord_fields (w : Word) : gpuWord (gp0Op w) (low24 w) = w := by
  unfold gpuWord gp0Op low24
  rw [BitVec.extractLsb'_append_extractLsb'_eq_extractLsb' (by decide)]
  exact extractLsb'_whole w

/-! ## The key bits of a word are its key fields (R132) -/

theorem rWord_rfe_key (op : BitVec 6) (rs rt rd sh : BitVec 5) (fn : BitVec 6) :
    rWord op rs rt rd sh fn &&& 0xFFE0003F = rWord op rs 0 0 0 fn := by
  rw [show (0xFFE0003F : Word) = BitVec.allOnes 6 ++ BitVec.allOnes 5 ++ (0 : BitVec 5) ++ (0 : BitVec 5)
    ++ (0 : BitVec 5) ++ BitVec.allOnes 6 by decide]
  unfold rWord
  repeat rw [BitVec.and_append]
  simp only [BitVec.and_allOnes, and_zeroLit]

section

variable (w : Word)

theorem and_primaryMask : w &&& 0xFC000000 = iWord (opField w) 0 0 0 := by
  conv_lhs => rw [← iWord_fields w]
  exact iWord_key ..

theorem and_specialMask : w &&& 0xFC00003F = rWord (opField w) 0 0 0 0 (functField w) := by
  conv_lhs => rw [← rWord_fields w]
  exact rWord_key ..

theorem and_regimmMask : w &&& 0xFC1F0000 = iWord (opField w) 0 (rtField w) 0 := by
  conv_lhs => rw [← iWord_fields w]
  exact iWord_regimm_key ..

theorem and_cop0Mask : w &&& 0xFFE00000 = rWord (opField w) (rsField w) 0 0 0 0 := by
  conv_lhs => rw [← rWord_fields w]
  exact rWord_cop_key ..

theorem and_rfeMask : w &&& 0xFFE0003F = rWord (opField w) (rsField w) 0 0 0 (functField w) := by
  conv_lhs => rw [← rWord_fields w]
  exact rWord_rfe_key ..

theorem and_gp0Mask : w &&& 0xFF000000 = gpuWord (gp0Op w) 0 := by
  conv_lhs => rw [← gpuWord_fields w]
  exact gpuWord_key ..

theorem and_gp1Mask : w &&& 0x3F000000 = gpuWord ((gp1Op w).setWidth 8) 0 := by
  have hop : gp1Op w = (gp0Op w).extractLsb' 0 6 := by
    conv_lhs => rw [← gpuWord_fields w]
    exact gp1Op_gpuWord ..
  have hkey : gp0Op w &&& 63 = ((gp0Op w).extractLsb' 0 6).setWidth 8 := by
    apply BitVec.eq_of_toNat_eq
    rw [BitVec.toNat_and, BitVec.toNat_setWidth_of_le (by decide), BitVec.extractLsb'_toNat, Nat.shiftRight_zero]
    exact Nat.and_two_pow_sub_one_eq_mod _ 6
  conv_lhs => rw [← gpuWord_fields w]
  rw [hop, ← hkey]
  exact gpuWord_gp1_key ..

end

/-! ## What the key bits of a row say of the key fields -/

section

variable {w key : Word}

theorem fields_of_and_primaryMask (h : w &&& 0xFC000000 = key) : opField w = opField key := by
  rw [← h, and_primaryMask, opField_iWord]

theorem fields_of_and_specialMask (h : w &&& 0xFC00003F = key) :
    opField w = opField key ∧ functField w = functField key := by
  rw [← h, and_specialMask, opField_rWord, functField_rWord]
  exact ⟨rfl, rfl⟩

theorem fields_of_and_regimmMask (h : w &&& 0xFC1F0000 = key) :
    opField w = opField key ∧ rtField w = rtField key := by
  rw [← h, and_regimmMask, opField_iWord, rtField_iWord]
  exact ⟨rfl, rfl⟩

theorem fields_of_and_cop0Mask (h : w &&& 0xFFE00000 = key) :
    opField w = opField key ∧ rsField w = rsField key := by
  rw [← h, and_cop0Mask, opField_rWord, rsField_rWord]
  exact ⟨rfl, rfl⟩

theorem fields_of_and_rfeMask (h : w &&& 0xFFE0003F = key) :
    opField w = opField key ∧ rsField w = rsField key ∧ functField w = functField key := by
  rw [← h, and_rfeMask, opField_rWord, rsField_rWord, functField_rWord]
  exact ⟨rfl, rfl, rfl⟩

end

/-- A GP0 word meets a row exactly when it has the row's opcode (R352). -/
theorem gp0_row_iff {w : Word} {j : Instr} (hj : j.space = .gp0) :
    w &&& j.tableMask = j.tableMatch ↔ gp0Op w = gp0Op j.tableMatch := by
  obtain ⟨hmask, hmatch⟩ : j.tableMask = 0xFF000000 ∧ j.tableMatch = gpuWord (gp0Op j.tableMatch) 0 := by
    cases j <;> cases hj <;> simp only [Instr.tableMask, Instr.tableMatch] <;> decide
  rw [hmask, and_gp0Mask]
  constructor
  · intro h
    rw [← h, gp0Op_gpuWord]
  · intro h
    rw [h, ← hmatch]

/-- A GP1 word meets a row exactly when it has the row's opcode modulo 64 (R390). -/
theorem gp1_row_iff {w : Word} {j : Instr} (hj : j.space = .gp1) :
    w &&& j.tableMask = j.tableMatch ↔ gp1Op w = gp1Op j.tableMatch := by
  obtain ⟨hmask, hmatch⟩ :
      j.tableMask = 0x3F000000 ∧ j.tableMatch = gpuWord ((gp1Op j.tableMatch).setWidth 8) 0 := by
    cases j <;> cases hj <;> simp only [Instr.tableMask, Instr.tableMatch] <;> decide
  rw [hmask, and_gp1Mask]
  constructor
  · intro h
    rw [← h, gp1Op_gpuWord]
    apply BitVec.eq_of_toNat_eq
    rw [BitVec.extractLsb'_toNat, BitVec.toNat_setWidth_of_le (by decide), Nat.shiftRight_zero,
      Nat.mod_eq_of_lt (gp1Op w).isLt]
  · intro h
    rw [h, ← hmatch]

/-! ## A word that meets a row is decoded as the row's instruction -/

/-- The instruction of `i`'s row whose operands are the fields of `w`, the first word of its encoding; the words that
follow it are kept. -/
def Instr.withOperandsOf (w : Word) : Instr → Instr
  | .add .. => .add (rdField w) (rsField w) (rtField w)
  | .addu .. => .addu (rdField w) (rsField w) (rtField w)
  | .sub .. => .sub (rdField w) (rsField w) (rtField w)
  | .subu .. => .subu (rdField w) (rsField w) (rtField w)
  | .and .. => .and (rdField w) (rsField w) (rtField w)
  | .or .. => .or (rdField w) (rsField w) (rtField w)
  | .xor .. => .xor (rdField w) (rsField w) (rtField w)
  | .nor .. => .nor (rdField w) (rsField w) (rtField w)
  | .slt .. => .slt (rdField w) (rsField w) (rtField w)
  | .sltu .. => .sltu (rdField w) (rsField w) (rtField w)
  | .sll .. => .sll (rdField w) (rtField w) (shamtField w)
  | .srl .. => .srl (rdField w) (rtField w) (shamtField w)
  | .sra .. => .sra (rdField w) (rtField w) (shamtField w)
  | .sllv .. => .sllv (rdField w) (rtField w) (rsField w)
  | .srlv .. => .srlv (rdField w) (rtField w) (rsField w)
  | .srav .. => .srav (rdField w) (rtField w) (rsField w)
  | .addi .. => .addi (rtField w) (rsField w) (immField w)
  | .addiu .. => .addiu (rtField w) (rsField w) (immField w)
  | .slti .. => .slti (rtField w) (rsField w) (immField w)
  | .sltiu .. => .sltiu (rtField w) (rsField w) (immField w)
  | .andi .. => .andi (rtField w) (rsField w) (immField w)
  | .ori .. => .ori (rtField w) (rsField w) (immField w)
  | .xori .. => .xori (rtField w) (rsField w) (immField w)
  | .lui .. => .lui (rtField w) (immField w)
  | .mult .. => .mult (rsField w) (rtField w)
  | .multu .. => .multu (rsField w) (rtField w)
  | .div .. => .div (rsField w) (rtField w)
  | .divu .. => .divu (rsField w) (rtField w)
  | .mfhi _ => .mfhi (rdField w)
  | .mthi _ => .mthi (rsField w)
  | .mflo _ => .mflo (rdField w)
  | .mtlo _ => .mtlo (rsField w)
  | .j _ => .j (targetField w)
  | .jal _ => .jal (targetField w)
  | .jr _ => .jr (rsField w)
  | .jalr .. => .jalr (rdField w) (rsField w)
  | .beq .. => .beq (rsField w) (rtField w) (immField w)
  | .bne .. => .bne (rsField w) (rtField w) (immField w)
  | .blez .. => .blez (rsField w) (immField w)
  | .bgtz .. => .bgtz (rsField w) (immField w)
  | .bltz .. => .bltz (rsField w) (immField w)
  | .bgez .. => .bgez (rsField w) (immField w)
  | .bltzal .. => .bltzal (rsField w) (immField w)
  | .bgezal .. => .bgezal (rsField w) (immField w)
  | .lb .. => .lb (rtField w) (rsField w) (immField w)
  | .lbu .. => .lbu (rtField w) (rsField w) (immField w)
  | .lh .. => .lh (rtField w) (rsField w) (immField w)
  | .lhu .. => .lhu (rtField w) (rsField w) (immField w)
  | .lw .. => .lw (rtField w) (rsField w) (immField w)
  | .sb .. => .sb (rtField w) (rsField w) (immField w)
  | .sh .. => .sh (rtField w) (rsField w) (immField w)
  | .sw .. => .sw (rtField w) (rsField w) (immField w)
  | .lwl .. => .lwl (rtField w) (rsField w) (immField w)
  | .lwr .. => .lwr (rtField w) (rsField w) (immField w)
  | .swl .. => .swl (rtField w) (rsField w) (immField w)
  | .swr .. => .swr (rtField w) (rsField w) (immField w)
  | .syscall => .syscall
  | .brk => .brk
  | .mfc0 .. => .mfc0 (rtField w) (rdField w)
  | .mtc0 .. => .mtc0 (rtField w) (rdField w)
  | .rfe => .rfe
  | .gp0Nop => .gp0Nop
  | .gp0CacheFlushStub => .gp0CacheFlushStub
  | .gp0Interrupt => .gp0Interrupt
  | .gp0MonoQuad _ v0 v1 v2 v3 => .gp0MonoQuad (low24 w) v0 v1 v2 v3
  | .gp0ShadedTriangle _ v0 c1 v1 c2 v2 => .gp0ShadedTriangle (low24 w) v0 c1 v1 c2 v2
  | .gp0ShadedQuad _ v0 c1 v1 c2 v2 c3 v3 => .gp0ShadedQuad (low24 w) v0 c1 v1 c2 v2 c3 v3
  | .gp0ImageLoad _ dest size => .gp0ImageLoad (low24 w) dest size
  | .gp0DrawMode .. => .gp0DrawMode (w.extractLsb' 0 11) (w.getLsbD 11) (w.getLsbD 12) (w.getLsbD 13)
  | .gp0TextureWindow .. =>
    .gp0TextureWindow (w.extractLsb' 0 5) (w.extractLsb' 5 5) (w.extractLsb' 10 5) (w.extractLsb' 15 5)
  | .gp0DrawAreaTopLeft .. => .gp0DrawAreaTopLeft (w.extractLsb' 0 10) (w.extractLsb' 10 10)
  | .gp0DrawAreaBottomRight .. => .gp0DrawAreaBottomRight (w.extractLsb' 0 10) (w.extractLsb' 10 10)
  | .gp0DrawOffset .. => .gp0DrawOffset (w.extractLsb' 0 11).toInt (w.extractLsb' 11 11).toInt
  | .gp0MaskBits .. => .gp0MaskBits (w.getLsbD 0) (w.getLsbD 1)
  | .gp1SoftReset => .gp1SoftReset
  | .gp1InterruptAcknowledge => .gp1InterruptAcknowledge
  | .gp1DisplayEnable _ => .gp1DisplayEnable (w.getLsbD 0)
  | .gp1DmaDirection _ => .gp1DmaDirection (w.extractLsb' 0 2)
  | .gp1DisplayOrigin .. => .gp1DisplayOrigin (w.extractLsb' 0 10) (w.extractLsb' 10 9)
  | .gp1HorizontalRange .. => .gp1HorizontalRange (w.extractLsb' 0 12) (w.extractLsb' 12 12)
  | .gp1VerticalRange .. => .gp1VerticalRange (w.extractLsb' 0 10) (w.extractLsb' 10 10)
  | .gp1DisplayMode .. =>
    .gp1DisplayMode (w.extractLsb' 0 2) (w.getLsbD 2) (w.getLsbD 3) (w.getLsbD 4) (w.getLsbD 5) (w.getLsbD 6)
      (w.getLsbD 7)

@[simp] theorem Instr.tableMask_withOperandsOf (w : Word) (j : Instr) :
    (j.withOperandsOf w).tableMask = j.tableMask := by
  cases j <;> rfl

@[simp] theorem Instr.tableMatch_withOperandsOf (w : Word) (j : Instr) :
    (j.withOperandsOf w).tableMatch = j.tableMatch := by
  cases j <;> rfl

/-- A CPU word that meets a row is the row's instruction, its operands the word's fields (R127 to R130). -/
theorem decodeCpu_of_row {w : Word} {j : Instr} (hj : j.space = .cpu) (h : w &&& j.tableMask = j.tableMatch) :
    decodeCpu w = .ok (j.withOperandsOf w) := by
  cases j <;> simp only [Instr.tableMask, Instr.tableMatch] at h
  case add | addu | sub | subu | and | or | xor | nor | slt | sltu | sll | srl | sra | sllv | srlv | srav | mult | multu
    | div | divu | mfhi | mthi | mflo | mtlo | jr | jalr | syscall | brk =>
    obtain ⟨hop, hfn⟩ := fields_of_and_specialMask h
    rw [decodeCpu, decodePrimary, hop, decodeSpecial, hfn]
    rfl
  case addi | addiu | slti | sltiu | andi | ori | xori | lui | j | jal | beq | bne | blez | bgtz | lb | lbu | lh | lhu
    | lw | sb | sh | sw | lwl | lwr | swl | swr =>
    rw [decodeCpu, decodePrimary, fields_of_and_primaryMask h]
    rfl
  case bltz | bgez | bltzal | bgezal =>
    obtain ⟨hop, hrt⟩ := fields_of_and_regimmMask h
    rw [decodeCpu, decodePrimary, hop, decodeRegimm, hrt]
    rfl
  case mfc0 | mtc0 =>
    obtain ⟨hop, hrs⟩ := fields_of_and_cop0Mask h
    rw [decodeCpu, decodePrimary, hop, decodeCop0, hrs]
    rfl
  case rfe =>
    obtain ⟨hop, hrs, hfn⟩ := fields_of_and_rfeMask h
    rw [decodeCpu, decodePrimary, hop, decodeCop0, hrs, hfn]
    rfl
  all_goals cases hj

/-- A GP0 command's first word and the words that follow it are the row's command (R352, R367). -/
theorem decodeGp0_of_row {w : Word} {j : Instr} (hj : j.space = .gp0) (h : gp0Op w = gp0Op j.tableMatch)
    (rest : List Word) :
    decodeGp0 (w :: ((encode j).tail ++ rest)) = .ok (j.withOperandsOf w, rest) := by
  cases j <;> cases hj <;> simp only [Instr.tableMatch] at h <;> unfold decodeGp0 <;> dsimp only <;>
    rw [h] <;> rfl

/-- A GP1 word that meets a row is the row's command (R390). -/
theorem decodeGp1_of_row {w : Word} {j : Instr} (hj : j.space = .gp1) (h : gp1Op w = gp1Op j.tableMatch) :
    decodeGp1 w = .ok (j.withOperandsOf w) := by
  cases j <;> cases hj <;> simp only [Instr.tableMatch] at h <;> rw [decodeGp1, h] <;> rfl

end Sys2Proof
end

section
/-!
SUPPORT. Decoding an encoded instruction, O1; the worked encodings, O5, and the fields of a word, O2.
-/

namespace Sys2Proof.Laws.EncodesItsRow

/-- Every well-formed instruction is encoded by words of its row. -/
theorem all (i : Instr) : Statement i := by
  cases i <;> simp only [add, addu, sub, subu, and, or, xor, nor, slt, sltu, sll, srl, sra, sllv, srlv, srav, addi,
    addiu, slti, sltiu, andi, ori, xori, lui, mult, multu, div, divu, mfhi, mthi, mflo, mtlo, j, jal, jr, jalr, beq, bne,
    blez, bgtz, bltz, bgez, bltzal, bgezal, lb, lbu, lh, lhu, lw, sb, sh, sw, lwl, lwr, swl, swr, syscall, brk, mfc0,
    mtc0, rfe, gp0Nop, gp0CacheFlushStub, gp0Interrupt, gp0MonoQuad, gp0ShadedTriangle, gp0ShadedQuad, gp0ImageLoad,
    gp0DrawMode, gp0TextureWindow, gp0DrawAreaTopLeft, gp0DrawAreaBottomRight, gp0DrawOffset, gp0MaskBits, gp1SoftReset,
    gp1InterruptAcknowledge, gp1DisplayEnable, gp1DmaDirection, gp1DisplayOrigin, gp1HorizontalRange, gp1VerticalRange,
    gp1DisplayMode]

end Sys2Proof.Laws.EncodesItsRow

namespace Sys2Proof

/-- A drawing offset of the range of R365 is read back from its 11 bits. -/
theorem toInt_ofInt_of_drawOffsetInRange {v : Int} (h : drawOffsetInRange v = true) :
    (BitVec.ofInt 11 v).toInt = v := by
  obtain ⟨hlo, hhi⟩ := of_decide_eq_true h
  exact BitVec.toInt_ofInt_eq_self (by decide) hlo (by omega)

/-- The operands of an encoded instruction are the fields of its first word. -/
theorem withOperandsOf_encode {i : Instr} (hwf : i.wellFormed = true) {w : Word} {ws : List Word}
    (h : encode i = w :: ws) : i.withOperandsOf w = i := by
  cases i <;> cases h
  case gp0DrawOffset x y =>
    obtain ⟨hx, hy⟩ := Bool.and_eq_true_iff.1 hwf
    simp (disch := decide) only [Instr.withOperandsOf, extractLsb'_gpuWord, extractLsb'_append_high,
      extractLsb'_append_low, Nat.reduceSub, extractLsb'_whole, toInt_ofInt_of_drawOffsetInRange hx,
      toInt_ofInt_of_drawOffsetInRange hy]
  case gp0DrawMode | gp0TextureWindow | gp0DrawAreaTopLeft | gp0DrawAreaBottomRight | gp0MaskBits | gp1DisplayEnable
    | gp1DmaDirection | gp1DisplayOrigin | gp1HorizontalRange | gp1VerticalRange | gp1DisplayMode =>
    simp (disch := decide) only [Instr.withOperandsOf, extractLsb'_gpuWord, extractLsb'_append_high,
      extractLsb'_append_low, Nat.reduceSub, extractLsb'_whole, getLsbD_gpuWord, BitVec.getLsbD_append, Nat.reduceLT,
      if_true, if_false, getLsbD_bit]
  all_goals simp only [Instr.withOperandsOf, rsField_rWord, rtField_rWord, rdField_rWord, shamtField_rWord,
    rsField_iWord, rtField_iWord, immField_iWord, targetField_jWord, low24_gpuWord]

/-- A word that meets a row, with what follows it in an encoding of that row, is decoded as the row's instruction. -/
theorem decode_of_row {w : Word} {i : Instr} (h : w &&& i.tableMask = i.tableMatch) (rest : List Word) :
    decode i.space (w :: ((encode i).tail ++ rest)) = .ok (i.withOperandsOf w, rest) := by
  cases hs : i.space with
  | cpu =>
    have htail : (encode i).tail = [] := by cases i <;> cases hs <;> rfl
    simp only [decode, decodeCpu_of_row hs h, htail, List.nil_append]
  | gp0 => exact decodeGp0_of_row hs ((gp0_row_iff hs).1 h) rest
  | gp1 =>
    have htail : (encode i).tail = [] := by cases i <;> cases hs <;> rfl
    simp only [decode, decodeGp1_of_row hs ((gp1_row_iff hs).1 h), htail, List.nil_append]

/-- Settles O1: the first word meets the instruction's row, and its fields are the instruction's operands. -/
theorem decodeInvertsEncode : Obligations.DecodeInvertsEncode := by
  intro i rest hwf
  obtain ⟨w, ws, hw, hrow⟩ := Laws.EncodesItsRow.all i hwf
  have h := decode_of_row hrow rest
  rw [withOperandsOf_encode hwf hw, hw] at h
  rw [hw]
  exact h

theorem decodeCpu_of_encode {i : Instr} {w : Word} (hs : i.space = .cpu) (h : encode i = [w]) :
    decodeCpu w = .ok i := by
  have hwf : i.wellFormed = true := by cases i <;> cases hs <;> rfl
  obtain ⟨w', ws, hw, hrow⟩ := Laws.EncodesItsRow.all i hwf
  cases hw.symm.trans h
  rw [decodeCpu_of_row hs hrow, withOperandsOf_encode hwf h]

/-- Settles O5: the nineteen CPU instructions are encoded by their words, and decoding inverts that. -/
theorem workedEncodings : Obligations.WorkedEncodings := by
  intro p hp
  obtain ⟨hs, henc⟩ : p.2.space = .cpu ∧ encode p.2 = [p.1] := by
    revert p
    decide
  exact ⟨decodeCpu_of_encode hs henc, henc⟩

/-- Settles O2: each field is a shift and a remainder; for `op` nothing stands above it. -/
theorem fieldsOfAWord : Obligations.FieldsOfAWord := by
  intro w
  have field (lo k : Nat) : (w.extractLsb' lo k).toNat = w.toNat / 2 ^ lo % 2 ^ k := by
    rw [BitVec.extractLsb'_toNat, Nat.shiftRight_eq_div_pow]
  have lowField (k : Nat) : (w.extractLsb' 0 k).toNat = w.toNat % 2 ^ k := BitVec.extractLsb'_toNat 0 k w
  have hop : w.toNat / 2 ^ 26 < 2 ^ 6 := by omega
  exact ⟨(field 26 6).trans (Nat.mod_eq_of_lt hop), field 21 5, field 16 5, field 11 5, field 6 5, lowField 6,
    lowField 16, lowField 26⟩

end Sys2Proof
end

section
/-!
SUPPORT. Only a word that meets a row is decoded, and a word that meets none is rejected by name (R133, R135), O3, O4.
-/

namespace Sys2Proof

/-! ## Only a word that meets a row is decoded -/

section

variable {w : Word} {op rs rt fn : Nat}

theorem and_primaryMask_of_toNat (hop : (opField w).toNat = op) :
    w &&& 0xFC000000 = iWord (BitVec.ofNat 6 op) 0 0 0 := by
  subst hop
  simp only [and_primaryMask, BitVec.ofNat_toNat, BitVec.setWidth_eq]

theorem and_specialMask_of_toNat (hop : (opField w).toNat = op) (hfn : (functField w).toNat = fn) :
    w &&& 0xFC00003F = rWord (BitVec.ofNat 6 op) 0 0 0 0 (BitVec.ofNat 6 fn) := by
  subst hop hfn
  simp only [and_specialMask, BitVec.ofNat_toNat, BitVec.setWidth_eq]

theorem and_regimmMask_of_toNat (hop : (opField w).toNat = op) (hrt : (rtField w).toNat = rt) :
    w &&& 0xFC1F0000 = iWord (BitVec.ofNat 6 op) 0 (BitVec.ofNat 5 rt) 0 := by
  subst hop hrt
  simp only [and_regimmMask, BitVec.ofNat_toNat, BitVec.setWidth_eq]

theorem and_cop0Mask_of_toNat (hop : (opField w).toNat = op) (hrs : (rsField w).toNat = rs) :
    w &&& 0xFFE00000 = rWord (BitVec.ofNat 6 op) (BitVec.ofNat 5 rs) 0 0 0 0 := by
  subst hop hrs
  simp only [and_cop0Mask, BitVec.ofNat_toNat, BitVec.setWidth_eq]

theorem and_rfeMask_of_toNat (hop : (opField w).toNat = op) (hrs : (rsField w).toNat = rs)
    (hfn : (functField w).toNat = fn) :
    w &&& 0xFFE0003F = rWord (BitVec.ofNat 6 op) (BitVec.ofNat 5 rs) 0 0 0 (BitVec.ofNat 6 fn) := by
  subst hop hrs hfn
  simp only [and_rfeMask, BitVec.ofNat_toNat, BitVec.setWidth_eq]

theorem and_gp0Mask_of_toNat (hop : (gp0Op w).toNat = op) : w &&& 0xFF000000 = gpuWord (BitVec.ofNat 8 op) 0 := by
  subst hop
  simp only [and_gp0Mask, BitVec.ofNat_toNat, BitVec.setWidth_eq]

theorem and_gp1Mask_of_toNat (hop : (gp1Op w).toNat = op) : w &&& 0x3F000000 = gpuWord (BitVec.ofNat 8 op) 0 := by
  subst hop
  simp only [and_gp1Mask, BitVec.ofNat_toNat]

end

/-- `w` meets the row of `i`, in the stream `sp` (R135). -/
def MeetsRow (sp : Space) (w : Word) (i : Instr) : Prop := i.space = sp ∧ w &&& i.tableMask = i.tableMatch

section

variable {w : Word} {i : Instr}

theorem meetsRow_of_decodeSpecial (hop : (opField w).toNat = 0) (h : decodeSpecial w = some i) : MeetsRow .cpu w i := by
  unfold decodeSpecial at h
  split at h <;> cases h
  all_goals rename_i hfn; exact ⟨rfl, and_specialMask_of_toNat hop hfn⟩

theorem meetsRow_of_decodeRegimm (hop : (opField w).toNat = 1) (h : decodeRegimm w = some i) : MeetsRow .cpu w i := by
  unfold decodeRegimm at h
  split at h <;> cases h
  all_goals rename_i hrt; exact ⟨rfl, and_regimmMask_of_toNat hop hrt⟩

theorem meetsRow_of_decodeCop0 (hop : (opField w).toNat = 16) (h : decodeCop0 w = some i) : MeetsRow .cpu w i := by
  unfold decodeCop0 at h
  split at h
  case h_3 hrs =>
    split at h <;> cases h
    rename_i hfn
    exact ⟨rfl, and_rfeMask_of_toNat hop hrs hfn⟩
  all_goals rename_i hrs; cases h
  all_goals exact ⟨rfl, and_cop0Mask_of_toNat hop hrs⟩

theorem meetsRow_of_decodePrimary (h : decodePrimary w = some i) : MeetsRow .cpu w i := by
  unfold decodePrimary at h
  split at h
  case h_1 hop => exact meetsRow_of_decodeSpecial hop h
  case h_2 hop => exact meetsRow_of_decodeRegimm hop h
  case h_17 hop => exact meetsRow_of_decodeCop0 hop h
  all_goals rename_i hop; cases h
  all_goals exact ⟨rfl, and_primaryMask_of_toNat hop⟩

/-- What the CPU's decoder accepts meets the row of what it answers (R133). -/
theorem meetsRow_of_decodeCpu (h : decodeCpu w = .ok i) : MeetsRow .cpu w i := by
  unfold decodeCpu at h
  split at h <;> cases h
  exact meetsRow_of_decodePrimary ‹_›

/-- The CPU's decoder rejects by the one name (R131). -/
theorem decodeCpu_eq_ok_or_unknown (w : Word) :
    (∃ i, decodeCpu w = .ok i) ∨ decodeCpu w = .error (.unknownInstruction w) := by
  unfold decodeCpu
  split
  · exact .inl ⟨_, rfl⟩
  · exact .inr rfl

/-- What the GP0 decoder accepts begins with the opcode of what it answers (R352). -/
theorem meetsRow_of_decodeGp0 {ws rest : List Word} (h : decodeGp0 (w :: ws) = .ok (i, rest)) : MeetsRow .gp0 w i := by
  unfold decodeGp0 at h
  dsimp only at h
  split at h
  case h_4 hop | h_5 hop | h_6 hop | h_7 hop =>
    split at h <;> cases h
    exact ⟨rfl, and_gp0Mask_of_toNat hop⟩
  all_goals rename_i hop; cases h
  all_goals exact ⟨rfl, and_gp0Mask_of_toNat hop⟩

/-- What the GP1 decoder accepts has the opcode of what it answers (R390). -/
theorem meetsRow_of_decodeGp1 (h : decodeGp1 w = .ok i) : MeetsRow .gp1 w i := by
  unfold decodeGp1 at h
  split at h <;> cases h
  all_goals rename_i hop; exact ⟨rfl, and_gp1Mask_of_toNat hop⟩

/-- The GP1 decoder rejects by the one name (R400). -/
theorem decodeGp1_eq_ok_or_unknown (w : Word) :
    (∃ i, decodeGp1 w = .ok i) ∨ decodeGp1 w = .error (.unknownGp1 w) := by
  unfold decodeGp1
  split
  case h_9 => exact .inr rfl
  all_goals exact .inl ⟨_, rfl⟩

/-- Eight words are enough for every GP0 command (R367), so the decoder answers a command or rejects the first word. -/
theorem decodeGp0_eq_ok_or_unknown (w v1 v2 v3 v4 v5 v6 v7 : Word) :
    (∃ i rest, decodeGp0 [w, v1, v2, v3, v4, v5, v6, v7] = .ok (i, rest))
    ∨ decodeGp0 [w, v1, v2, v3, v4, v5, v6, v7] = .error (.unknownGp0 w) := by
  unfold decodeGp0
  dsimp only
  split
  case h_14 => exact .inr rfl
  all_goals exact .inl ⟨_, _, rfl⟩

/-- Whether a GP0 word is rejected does not depend on the words after it. -/
theorem decodeGp0_unknown_congr {ws : List Word} (ws' : List Word) (h : decodeGp0 (w :: ws) = .error (.unknownGp0 w)) :
    decodeGp0 (w :: ws') = .error (.unknownGp0 w) := by
  unfold decodeGp0 at h ⊢
  dsimp only at h ⊢
  split at h
  case h_4 | h_5 | h_6 | h_7 => split at h <;> cases h
  case h_14 => simp only [*]
  all_goals cases h

end

/-! ## The three streams follow the table -/

/-- Settles O3: a word of a row is decoded with that row (`decodeCpu_of_row`), and only such a word is decoded. -/
theorem cpuWordsFollowTheTable : Obligations.CpuWordsFollowTheTable := by
  intro w
  refine ⟨fun i => meetsRow_of_decodeCpu, fun j hj h => ?_, fun h => ?_⟩
  · exact ⟨j.withOperandsOf w, decodeCpu_of_row hj h, j.tableMask_withOperandsOf w, j.tableMatch_withOperandsOf w⟩
  · refine (decodeCpu_eq_ok_or_unknown w).resolve_left fun ⟨i, hi⟩ => ?_
    obtain ⟨hs, hrow⟩ := meetsRow_of_decodeCpu hi
    exact h i hs hrow

/-- A GP0 word is rejected exactly when it meets no row (R368). -/
theorem decodeGp0_eq_unknown_iff {w : Word} {ws : List Word} :
    decodeGp0 (w :: ws) = .error (.unknownGp0 w) ↔
      ∀ j : Instr, j.space = .gp0 → w &&& j.tableMask ≠ j.tableMatch := by
  constructor
  · intro h j hj hrow
    have hok := decodeGp0_of_row hj ((gp0_row_iff hj).1 hrow) []
    rw [decodeGp0_unknown_congr _ h] at hok
    cases hok
  · intro h
    refine decodeGp0_unknown_congr ws
      ((decodeGp0_eq_ok_or_unknown w 0 0 0 0 0 0 0).resolve_left fun ⟨i, rest, hi⟩ => ?_)
    obtain ⟨hs, hrow⟩ := meetsRow_of_decodeGp0 hi
    exact h i hs hrow

/-- A GP1 word is rejected exactly when it meets no row (R400). -/
theorem decodeGp1_eq_unknown_iff {w : Word} :
    decodeGp1 w = .error (.unknownGp1 w) ↔ ∀ j : Instr, j.space = .gp1 → w &&& j.tableMask ≠ j.tableMatch := by
  constructor
  · intro h j hj hrow
    rw [decodeGp1_of_row hj ((gp1_row_iff hj).1 hrow)] at h
    cases h
  · intro h
    refine (decodeGp1_eq_ok_or_unknown w).resolve_left fun ⟨i, hi⟩ => ?_
    obtain ⟨hs, hrow⟩ := meetsRow_of_decodeGp1 hi
    exact h i hs hrow

theorem decode_gp1_eq_ok {w : Word} {ws rest : List Word} {i : Instr} :
    decode .gp1 (w :: ws) = .ok (i, rest) ↔ decodeGp1 w = .ok i ∧ ws = rest := by
  rw [decode]
  cases decodeGp1 w <;> simp

theorem decode_gp1_eq_error {w : Word} {ws : List Word} {e : DecodeError} :
    decode .gp1 (w :: ws) = .error e ↔ decodeGp1 w = .error e := by
  rw [decode]
  cases decodeGp1 w <;> simp

/-- Settles O4: each port's decoder accepts only words of a row, and rejects exactly the words of none. -/
theorem gpuWordsFollowTheTable : Obligations.GpuWordsFollowTheTable := by
  intro w ws
  exact ⟨fun i rest => meetsRow_of_decodeGp0, decodeGp0_eq_unknown_iff,
    fun i rest h => meetsRow_of_decodeGp1 (decode_gp1_eq_ok.1 h).1, decode_gp1_eq_error.trans decodeGp1_eq_unknown_iff⟩

end Sys2Proof
end

section
/-!
SUPPORT. The encodings outside the opcode maps (R131), and the stop of a step that fetches one, O6.
-/

namespace Sys2Proof

/-! ## The words no map selects -/

theorem decodePrimary_special {w : Word} (hop : (opField w).toNat = 0) : decodePrimary w = decodeSpecial w := by
  simp only [decodePrimary, hop]

theorem decodePrimary_regimm {w : Word} (hop : (opField w).toNat = 1) : decodePrimary w = decodeRegimm w := by
  simp only [decodePrimary, hop]

theorem decodePrimary_cop0 {w : Word} (hop : (opField w).toNat = 16) : decodePrimary w = decodeCop0 w := by
  simp only [decodePrimary, hop]

theorem decodePrimary_eq_none {w : Word}
    (h : (opField w).toNat ∈ [0x11, 0x12, 0x13, 0x14, 0x15, 0x16, 0x17, 0x27, 0x2C, 0x2D, 0x2F]
      ∨ 0x18 ≤ (opField w).toNat ∧ (opField w).toNat < 0x20 ∨ 0x30 ≤ (opField w).toNat) :
    decodePrimary w = none := by
  simp only [List.mem_cons, List.not_mem_nil, or_false] at h
  unfold decodePrimary
  split
  case h_30 => rfl
  all_goals omega

theorem decodeSpecial_eq_none {w : Word}
    (h : (functField w).toNat ∈
        [0x01, 0x05, 0x0A, 0x0B, 0x0E, 0x0F, 0x14, 0x15, 0x16, 0x17, 0x1C, 0x1D, 0x1E, 0x1F, 0x28, 0x29]
      ∨ 0x2C ≤ (functField w).toNat) :
    decodeSpecial w = none := by
  simp only [List.mem_cons, List.not_mem_nil, or_false] at h
  unfold decodeSpecial
  split
  case h_29 => rfl
  all_goals omega

theorem decodeRegimm_eq_none {w : Word}
    (h : (rtField w).toNat ≠ 0 ∧ (rtField w).toNat ≠ 1 ∧ (rtField w).toNat ≠ 16 ∧ (rtField w).toNat ≠ 17) :
    decodeRegimm w = none := by
  unfold decodeRegimm
  split
  case h_5 => rfl
  all_goals omega

theorem decodeCop0_eq_none {w : Word}
    (h : (rsField w).toNat ≠ 0 ∧ (rsField w).toNat ≠ 4 ∧ (rsField w).toNat ≠ 16
      ∨ (rsField w).toNat = 16 ∧ (functField w).toNat ≠ 16) :
    decodeCop0 w = none := by
  unfold decodeCop0
  split
  case h_3 => exact if_neg (by omega)
  case h_4 => rfl
  all_goals omega

end Sys2Proof

namespace Sys2Proof.Machine

/-- A step that fetches an unknown word stops there, the program counters advanced (R131, R410). -/
theorem step_of_decode_error {s : State} {w : Word} (hrun : s.halted = none) (hfetch : s.fetch = .ok w)
    (h : decodeCpu w = .error (.unknownInstruction w)) :
    step s = stopped s.prologue (.unknownInstruction s.currentPc w) := by
  simp only [step, hrun, State.cycle, hfetch, State.runWord, h, State.stop_eq]

/-- Settles O6: no map has an entry for the word, primary, SPECIAL, REGIMM and COP0 in turn. -/
theorem reservedEncodingsStop : Obligations.ReservedEncodingsStop := by
  intro s w hrun hfetch h
  have hnone : decodePrimary w = none := by
    rcases h with h | h | h | ⟨hop, h⟩ | ⟨hop, h⟩ | ⟨hop, h⟩ | ⟨hop, h⟩ | ⟨hop, h⟩
    · exact decodePrimary_eq_none (.inl h)
    · exact decodePrimary_eq_none (.inr (.inl h))
    · exact decodePrimary_eq_none (.inr (.inr h))
    · exact (decodePrimary_special hop).trans (decodeSpecial_eq_none (.inl h))
    · exact (decodePrimary_special hop).trans (decodeSpecial_eq_none (.inr h))
    · exact (decodePrimary_regimm hop).trans (decodeRegimm_eq_none h)
    · exact (decodePrimary_cop0 hop).trans (decodeCop0_eq_none (.inl h))
    · exact (decodePrimary_cop0 hop).trans (decodeCop0_eq_none (.inr h))
  exact step_of_decode_error hrun hfetch (by rw [decodeCpu, hnone])

end Sys2Proof.Machine
end

section
/-!
SUPPORT. The ALU: the values its instructions write as arithmetic on numbers (R152 to R175), the one way most of them
end (R150), and the way of those that trap (R151); O30, O31, O32, O33.
-/

namespace Sys2Proof

/-- The words of a CPU row are its instruction, its operands the word's fields (R135). -/
theorem selects_row (i : Instr) (hi : i.space = .cpu) :
    Machine.Selects i.tableMask i.tableMatch fun w => i.withOperandsOf w :=
  fun _ => decodeCpu_of_row hi

end Sys2Proof

namespace Sys2Proof.Machine

/-! ## Sums, differences and shifts as numbers (R153, R155, R162 to R167) -/

section

variable {w : Nat} (a b : BitVec w) (n : Nat)

theorem add_eq_ofInt : a + b = BitVec.ofInt w (a.toInt + b.toInt) := by
  simp only [BitVec.ofInt_add, BitVec.ofInt_toInt]

theorem ofInt_sub_eq (x y : Int) : BitVec.ofInt w (x - y) = BitVec.ofInt w x - BitVec.ofInt w y := by
  rw [Int.sub_eq_add_neg, BitVec.ofInt_add, BitVec.ofInt_neg, BitVec.sub_eq_add_neg]

theorem sub_eq_ofInt : a - b = BitVec.ofInt w (a.toInt - b.toInt) := by
  simp only [ofInt_sub_eq, BitVec.ofInt_toInt]

theorem sub_eq_ofInt_toNat : a - b = BitVec.ofInt w ((a.toNat : Int) - b.toNat) := by
  simp only [ofInt_sub_eq, BitVec.ofInt_natCast, BitVec.ofNat_toNat, BitVec.setWidth_eq]

theorem shiftLeft_eq_ofNat : a <<< n = BitVec.ofNat w (a.toNat * 2 ^ n) :=
  congrArg (BitVec.ofNat w) (Nat.shiftLeft_eq a.toNat n)

theorem ushiftRight_eq_ofNat : a >>> n = BitVec.ofNat w (a.toNat / 2 ^ n) := by
  rw [← Nat.shiftRight_eq_div_pow, ← BitVec.toNat_ushiftRight, BitVec.ofNat_toNat, BitVec.setWidth_eq]

theorem sshiftRight_eq_ofInt : a.sshiftRight n = BitVec.ofInt w (a.toInt / 2 ^ n) := by
  rw [BitVec.sshiftRight, Int.shiftRight_eq_div_pow]
  norm_cast

end

/-- The count of a variable shift is the register modulo 32 (R125). -/
theorem State.shiftCount_eq (s : State) (rs : Reg) : s.shiftCount rs = (s.reg rs).toNat % 32 :=
  BitVec.extractLsb'_toNat 0 5 _

/-! ## Immediates (R125) -/

theorem toInt_sext16 (imm : Half) : (sext16 imm).toInt = imm.toInt := BitVec.toInt_signExtend_of_le (by decide)

theorem zext16_eq_ofNat (imm : Half) : zext16 imm = BitVec.ofNat 32 imm.toNat := (BitVec.ofNat_toNat ..).symm

theorem upper16_eq_append (imm : Half) : upper16 imm = imm ++ (0 : BitVec 16) := by
  apply BitVec.eq_of_toNat_eq
  rw [toNat_append_eq_add imm 0, upper16, BitVec.toNat_shiftLeft, BitVec.toNat_setWidth, Nat.shiftLeft_eq,
    show (0 : BitVec 16).toNat = 0 from rfl]
  omega

/-! ## The overflow predicates (R152, R154) -/

theorem shiftRight_31_beq_one (x : Word) : (x >>> 31 == 1) = x.msb := by
  rw [BitVec.msb_eq_decide, beq_eq_decide, decide_eq_decide, ← BitVec.toNat_inj, BitVec.toNat_ushiftRight,
    Nat.shiftRight_eq_div_pow, show (1 : Word).toNat = 1 from rfl]
  omega

/-- `v` is a 32-bit signed number. -/
abbrev FitsWord (v : Int) : Prop := -2 ^ 31 ≤ v ∧ v < 2 ^ 31

/-- The sign test of R152 finds exactly the sums that are no 32-bit signed numbers. -/
theorem addOverflows_iff (a b : Word) : addOverflows a b (a + b) = true ↔ ¬FitsWord (a.toInt + b.toInt) := by
  have hsign : addOverflows a b (a + b) = a.saddOverflow b := by
    rw [addOverflows, shiftRight_31_beq_one, BitVec.saddOverflow_eq, BitVec.msb_and, BitVec.msb_xor,
      BitVec.msb_xor]
    cases a.msb <;> cases b.msb <;> cases (a + b).msb <;> rfl
  rw [hsign, BitVec.saddOverflow, Bool.or_eq_true, decide_eq_true_eq, decide_eq_true_eq]
  omega

/-- The sign test of R154 finds exactly the differences that are no 32-bit signed numbers. -/
theorem subOverflows_iff (a b : Word) : subOverflows a b (a - b) = true ↔ ¬FitsWord (a.toInt - b.toInt) := by
  have hsign : subOverflows a b (a - b) = a.ssubOverflow b := by
    rw [subOverflows, shiftRight_31_beq_one, BitVec.ssubOverflow_eq, BitVec.msb_and, BitVec.msb_xor,
      BitVec.msb_xor]
    cases a.msb <;> cases b.msb <;> cases (a - b).msb <;> rfl
  rw [hsign, BitVec.ssubOverflow, Bool.or_eq_true, decide_eq_true_eq, decide_eq_true_eq]
  omega

/-! ## Exception entry (R416) -/

/-- The mode stack after exception entry in three parts: bits 31:6 as before, the old bits 3:0, two zeros (R416). -/
theorem pushModeStack_eq_append (sr : Word) :
    pushModeStack sr = sr.extractLsb' 6 26 ++ sr.extractLsb' 0 4 ++ (0 : BitVec 2) := by
  have hhigh : (sr &&& (0xFFFFFFC0 : Word)).toNat = (sr.toNat / 64) <<< 6 := by
    have hshift : sr &&& (0xFFFFFFC0 : Word) = sr >>> 6 <<< 6 := (BitVec.shiftLeft_ushiftRight (x := sr) (n := 6)).symm
    rw [hshift, BitVec.toNat_shiftLeft, BitVec.toNat_ushiftRight, Nat.shiftRight_eq_div_pow, Nat.shiftLeft_eq]
    omega
  have hmask (x : Word) : (x &&& (0x3F : Word)).toNat = x.toNat % 64 := Nat.and_two_pow_sub_one_eq_mod x.toNat 6
  have hlow : (((sr &&& (0x3F : Word)) <<< 2) &&& (0x3F : Word)).toNat = sr.toNat % 16 * 4 := by
    rw [hmask, BitVec.toNat_shiftLeft, hmask, Nat.shiftLeft_eq]
    omega
  have hparts : (sr.extractLsb' 6 26 ++ sr.extractLsb' 0 4 ++ (0 : BitVec 2)).toNat
      = sr.toNat / 64 * 64 + sr.toNat % 16 * 4 := by
    rw [toNat_append_eq_add, toNat_append_eq_add, show (0 : BitVec 2).toNat = 0 from rfl]
    simp only [BitVec.extractLsb'_toNat, Nat.shiftRight_eq_div_pow]
    omega
  apply BitVec.eq_of_toNat_eq
  calc (pushModeStack sr).toNat
      = (sr.toNat / 64) <<< 6 ||| sr.toNat % 16 * 4 := congrArg₂ (· ||| ·) hhigh hlow
    _ = (sr.toNat / 64) <<< 6 + sr.toNat % 16 * 4 := (Nat.shiftLeft_add_eq_or_of_lt (by omega) _).symm
    _ = sr.toNat / 64 * 64 + sr.toNat % 16 * 4 := by rw [Nat.shiftLeft_eq]
    _ = _ := hparts.symm

theorem State.enterException_takesException (s : State) (code : BitVec 5) :
    TakesException code s (s.enterException code) :=
  ⟨pushModeStack_eq_append s.sr, rfl, rfl, rfl, rfl, rfl,
    fun a => State.memRead_congr rfl rfl rfl rfl rfl rfl a .byte⟩

/-- Outside a delay slot an exception is taken. -/
theorem State.raise_takesException {s : State} (code : BitVec 5) (h : s.inDelaySlot = false) :
    Completes (s.raise code) (TakesException code s) :=
  ⟨_, State.raise_eq_next.2 ⟨h, rfl⟩, s.enterException_takesException code⟩

/-- In a delay slot an exception stops the machine. -/
theorem State.raise_inDelaySlot {s : State} (code : BitVec 5) (h : s.inDelaySlot = true) :
    s.raise code = stopped s (.exceptionInDelaySlot s.cia code) := if_pos h

/-! ## How an ALU instruction ends (R150, R151) -/

/-- An instruction that cannot trap completes, and has written its destination only (R150). -/
theorem State.writeResult_completes (s : State) (rd : Reg) {r v : Word} (h : r = v) :
    Completes (s.writeResult rd r) (OnlyRegister rd v s) := by
  subst h
  exact ⟨_, rfl, OnlyRegister.setReg s rd r⟩

theorem State.overflowTrap_exception {s : State} (h : s.cfg.ovfMode = .exception) :
    s.overflowTrap = s.raise codeOv := by
  rw [State.overflowTrap, h]

theorem State.overflowTrap_fatal {s : State} (h : s.cfg.ovfMode = .fatal) :
    s.overflowTrap = stopped s (.overflow s.cia) := by
  rw [State.overflowTrap, h, State.stop_eq]

/-- An instruction whose overflow predicate says when the exact result does not fit, writes that result wrapped and
traps then (R151). -/
theorem State.writeThenTrap_writesThenTraps (s : State) (rd : Reg) {r : Word} {v : Int} {overflows : Bool}
    (hr : r = BitVec.ofInt 32 v) (hov : overflows = true ↔ ¬FitsWord v) :
    WritesThenTraps (s.writeThenTrap rd r overflows) rd v s := by
  subst hr
  have htrap (h : ¬FitsWord v) : s.writeThenTrap rd (BitVec.ofInt 32 v) overflows
      = (s.setReg rd (BitVec.ofInt 32 v)).overflowTrap := if_pos (hov.2 h)
  refine ⟨s.setReg rd (BitVec.ofInt 32 v), OnlyRegister.setReg .., fun hfit => ?_, fun hout hmode hslot => ?_,
    fun hout hmode hslot => ?_, fun hout hmode => ?_⟩
  · exact if_neg fun h => hov.1 h hfit
  · rw [htrap hout, State.overflowTrap_exception (by simpa using hmode)]
    exact State.raise_takesException codeOv (by simpa using hslot)
  · rw [htrap hout, State.overflowTrap_exception (by simpa using hmode),
      State.raise_inDelaySlot codeOv (by simpa using hslot), State.setReg_cia]
    rfl
  · rw [htrap hout, State.overflowTrap_fatal (by simpa using hmode), State.setReg_cia]

/-! ## The statements -/

/-- Settles O30: each word is its row's, each instruction writes its result; sums and differences are modulo 2^32. -/
theorem registerAlu : Obligations.RegisterAlu := by
  refine ⟨selects_row (.addu 0 0 0) rfl, selects_row (.subu 0 0 0) rfl, selects_row (.and 0 0 0) rfl,
    selects_row (.or 0 0 0) rfl, selects_row (.xor 0 0 0) rfl, selects_row (.nor 0 0 0) rfl,
    selects_row (.slt 0 0 0) rfl, selects_row (.sltu 0 0 0) rfl, fun s rd rs rt => ?_⟩
  exact ⟨s.writeResult_completes rd (BitVec.add_def ..), s.writeResult_completes rd (sub_eq_ofInt_toNat ..),
    s.writeResult_completes rd rfl, s.writeResult_completes rd rfl, s.writeResult_completes rd rfl,
    s.writeResult_completes rd rfl, s.writeResult_completes rd rfl, s.writeResult_completes rd rfl⟩

/-- Settles O31: each word is its row's, each instruction writes its result, and a shift is multiplication or floor
division by a power of two. -/
theorem shifts : Obligations.Shifts := by
  refine ⟨selects_row (.sll 0 0 0) rfl, selects_row (.srl 0 0 0) rfl, selects_row (.sra 0 0 0) rfl,
    selects_row (.sllv 0 0 0) rfl, selects_row (.srlv 0 0 0) rfl, selects_row (.srav 0 0 0) rfl,
    fun s rd rt rs n => ?_⟩
  dsimp only
  rw [← s.shiftCount_eq rs]
  exact ⟨s.writeResult_completes rd (shiftLeft_eq_ofNat ..), s.writeResult_completes rd (ushiftRight_eq_ofNat ..),
    s.writeResult_completes rd (sshiftRight_eq_ofInt ..), s.writeResult_completes rd (shiftLeft_eq_ofNat ..),
    s.writeResult_completes rd (ushiftRight_eq_ofNat ..), s.writeResult_completes rd (sshiftRight_eq_ofInt ..)⟩

/-- Settles O32: each word is its row's, each instruction writes its result, and the immediate is a number by its sign
or zero extension. -/
theorem immediateAlu : Obligations.ImmediateAlu := by
  refine ⟨selects_row (.addiu 0 0 0) rfl, selects_row (.slti 0 0 0) rfl, selects_row (.sltiu 0 0 0) rfl,
    selects_row (.andi 0 0 0) rfl, selects_row (.ori 0 0 0) rfl, selects_row (.xori 0 0 0) rfl,
    selects_row (.lui 0 0) rfl, fun s rt rs imm => ?_⟩
  dsimp only
  rw [← toInt_sext16, ← zext16_eq_ofNat]
  exact ⟨s.writeResult_completes rt (add_eq_ofInt ..), s.writeResult_completes rt rfl,
    s.writeResult_completes rt rfl, s.writeResult_completes rt rfl, s.writeResult_completes rt rfl,
    s.writeResult_completes rt rfl, s.writeResult_completes rt (upper16_eq_append imm)⟩

/-- Settles O33: the result is the exact one wrapped, and the sign test tells whether that one fits. -/
theorem signedOverflow : Obligations.SignedOverflow := by
  refine ⟨selects_row (.add 0 0 0) rfl, selects_row (.sub 0 0 0) rfl, selects_row (.addi 0 0 0) rfl,
    fun s rd rs rt imm => ?_⟩
  rw [← toInt_sext16]
  exact ⟨s.writeThenTrap_writesThenTraps rd (add_eq_ofInt ..) (addOverflows_iff ..),
    s.writeThenTrap_writesThenTraps rd (sub_eq_ofInt ..) (subOverflows_iff ..),
    s.writeThenTrap_writesThenTraps rt (add_eq_ofInt ..) (addOverflows_iff ..)⟩

end Sys2Proof.Machine
end

section
/-!
SUPPORT. Multiply, divide and the moves from and to `hi` and `lo` (R200): each writes a pair of words and nothing else,
and that pair is a product, or a quotient and a remainder, as numbers (R208); O34, O35, O36.
-/

namespace Sys2Proof.Machine

/-! ## Products (R201, R202) -/

section

variable (a b : Word)

/-- A signed product of two words fits 64 bits. -/
theorem toInt_ofInt_mul : (BitVec.ofInt 64 (a.toInt * b.toInt)).toInt = a.toInt * b.toInt := by
  have hlow : -2 ^ 62 ≤ a.toInt * b.toInt := BitVec.le_toInt_mul_toInt
  have hhigh : a.toInt * b.toInt ≤ 2 ^ 62 := BitVec.toInt_mul_toInt_le
  exact BitVec.toInt_ofInt_eq_self (by decide) (by omega) (by omega)

/-- An unsigned product of two words fits 64 bits. -/
theorem toNat_ofNat_mul : (BitVec.ofNat 64 (a.toNat * b.toNat)).toNat = a.toNat * b.toNat :=
  Nat.mod_eq_of_lt BitVec.toNat_mul_toNat_lt

end

theorem State.setProduct_hi_append_lo (s : State) (p : BitVec 64) : (s.setProduct p).hi ++ (s.setProduct p).lo = p :=
  BitVec.extractLsb'_append_extractLsb'

/-! ## Signed division (R203) -/

section

variable {a b : Word}

theorem divSigned_zero (hb : b = 0) : divSigned a b = (a, if 0 ≤ a.toInt then 0xFFFFFFFF else 1) := if_pos hb

theorem divSigned_least (ha : a = 0x80000000) (hb : b = 0xFFFFFFFF) : divSigned a b = (0, 0x80000000) := by
  subst ha hb
  rfl

/-- The quotient is representable, but for the least number over -1. -/
theorem toInt_sdiv (h : ¬(a = 0x80000000 ∧ b = 0xFFFFFFFF)) : (a.sdiv b).toInt = a.toInt.tdiv b.toInt :=
  BitVec.toInt_sdiv_of_ne_or_ne a b (Decidable.not_and_iff_not_or_not.1 h)

/-- The general case is the library's truncating division of bit vectors. -/
theorem divSigned_of_ne (hb : b ≠ 0) (h : ¬(a = 0x80000000 ∧ b = 0xFFFFFFFF)) :
    divSigned a b = (a.srem b, a.sdiv b) := by
  have hr : (a.srem b).toInt = a.toInt - a.toInt.tdiv b.toInt * b.toInt := by
    rw [BitVec.toInt_srem, Int.tmod_def, Int.mul_comm]
  rw [divSigned, if_neg hb, if_neg h]
  dsimp only
  rw [← hr, ← toInt_sdiv h, BitVec.ofInt_toInt, BitVec.ofInt_toInt]

/-- A remainder of truncating division is zero or of the dividend's sign. -/
theorem tmod_eq_zero_or_pos_iff (x y : Int) : x.tmod y = 0 ∨ (0 < x.tmod y ↔ 0 < x) := by
  rw [← Int.sign_eq_zero_iff_zero, ← Int.sign_eq_one_iff_pos, ← Int.sign_eq_one_iff_pos, Int.sign_tmod]
  by_cases hdvd : y ∣ x
  · exact .inl (if_pos hdvd)
  · exact .inr (by rw [if_neg hdvd])

/-- The laws of R208. -/
theorem divSigned_laws (hb : b ≠ 0) (h : ¬(a = 0x80000000 ∧ b = 0xFFFFFFFF)) :
    (divSigned a b).2.toInt * b.toInt + (divSigned a b).1.toInt = a.toInt
    ∧ (divSigned a b).1.toInt.natAbs < b.toInt.natAbs
    ∧ ((divSigned a b).1.toInt = 0 ∨ (0 < (divSigned a b).1.toInt ↔ 0 < a.toInt)) := by
  have hpos : 0 < b.toInt.natAbs := Int.natAbs_pos.2 fun e => hb (BitVec.eq_of_toInt_eq e)
  rw [divSigned_of_ne hb h]
  dsimp only
  rw [toInt_sdiv h, BitVec.toInt_srem, Int.natAbs_tmod]
  exact ⟨Int.tdiv_mul_add_tmod .., Nat.mod_lt _ hpos, tmod_eq_zero_or_pos_iff ..⟩

/-! ## Unsigned division (R204) -/

theorem divUnsigned_zero (hb : b = 0) : divUnsigned a b = (a, 0xFFFFFFFF) := if_pos hb

theorem divUnsigned_of_ne (hb : b ≠ 0) : divUnsigned a b = (a % b, a / b) := by
  rw [divUnsigned, if_neg hb, ← BitVec.toNat_umod, ← BitVec.toNat_udiv, BitVec.ofNat_toNat, BitVec.ofNat_toNat,
    BitVec.setWidth_eq, BitVec.setWidth_eq]

end

/-! ## The statements -/

/-- Settles O34: each word is its row's, and `hi` over `lo` is the product, which fits 64 bits. -/
theorem multiply : Obligations.Multiply := by
  refine ⟨selects_row (.mult 0 0) rfl, selects_row (.multu 0 0) rfl, fun s rs rt =>
    ⟨⟨_, rfl, ?_, OnlyHiLo.setHiLo ..⟩, ⟨_, rfl, ?_, OnlyHiLo.setHiLo ..⟩⟩⟩
  · rw [State.setProduct_hi_append_lo, toInt_ofInt_mul]
  · rw [State.setProduct_hi_append_lo, toNat_ofNat_mul]

/-- Settles O35: each word is its row's, and the pair written is that of the case the operands are in. -/
theorem divide : Obligations.Divide := by
  refine ⟨selects_row (.div 0 0) rfl, selects_row (.divu 0 0) rfl, fun s rs rt =>
    ⟨⟨_, rfl, OnlyHiLo.setHiLo .., fun hd => ?zero, fun hn hd => ?least, divSigned_laws⟩,
      ⟨_, rfl, OnlyHiLo.setHiLo .., fun hd => ?zeroUnsigned, fun hd => ?unsigned⟩⟩⟩
  case zero => rw [divSigned_zero hd]; exact ⟨rfl, rfl⟩
  case least => rw [divSigned_least hn hd]; exact ⟨rfl, rfl⟩
  case zeroUnsigned => rw [divUnsigned_zero hd]; exact ⟨rfl, rfl⟩
  case unsigned => rw [divUnsigned_of_ne hd]; exact ⟨BitVec.toNat_udiv, BitVec.toNat_umod⟩

/-- Settles O36: each word is its row's, and each move writes one general register or the pair `hi` and `lo`. -/
theorem hiLoMoves : Obligations.HiLoMoves :=
  ⟨selects_row (.mfhi 0) rfl, selects_row (.mthi 0) rfl, selects_row (.mflo 0) rfl, selects_row (.mtlo 0) rfl,
    fun _ _ => ⟨⟨_, rfl, OnlyRegister.setReg ..⟩, ⟨_, rfl, OnlyRegister.setReg ..⟩, ⟨_, rfl, OnlyHiLo.setHiLo ..⟩,
      ⟨_, rfl, OnlyHiLo.setHiLo ..⟩⟩⟩

end Sys2Proof.Machine
end

section
/-!
SUPPORT. Jumps and branches: every control transfer is `BranchEntry()` (R221) around a body that writes general registers
and `next_pc` only (R220); O37, O38, O39.  What that leaves for the next step is the delay-slot timeline (R237), O14.
-/

namespace Sys2Proof

/-- No control transfer raises an exception (R414). -/
theorem Instr.canRaise_of_isTransfer {i : Instr} (hi : i.isTransfer = true) : i.canRaise = false := by
  cases i <;> cases hi <;> rfl

end Sys2Proof

namespace Sys2Proof.Machine

/-! ## Targets (R125) -/

/-- A jump target in three parts: the high 4 bits of the delay slot's address, the field, two zeros. -/
theorem State.jumpTarget_eq_append (s : State) (target : BitVec 26) :
    s.jumpTarget target = s.currentPc.extractLsb' 28 4 ++ target ++ (0 : BitVec 2) := by
  have hhigh : (s.currentPc &&& (0xF0000000 : Word)).toNat = (s.currentPc.toNat / 2 ^ 28) <<< 28 := by
    have hregion : s.currentPc &&& (0xF0000000 : Word) = s.currentPc >>> 28 <<< 28 :=
      (BitVec.shiftLeft_ushiftRight (x := s.currentPc) (n := 28)).symm
    rw [hregion, BitVec.toNat_shiftLeft, BitVec.toNat_ushiftRight, Nat.shiftRight_eq_div_pow, Nat.shiftLeft_eq]
    omega
  have hlow : (target.setWidth 32 <<< 2).toNat = target.toNat * 4 := by
    rw [BitVec.toNat_shiftLeft, BitVec.toNat_setWidth_of_le (by decide), Nat.shiftLeft_eq]
    omega
  have hparts : (s.currentPc.extractLsb' 28 4 ++ target ++ (0 : BitVec 2)).toNat
      = s.currentPc.toNat / 2 ^ 28 * 2 ^ 28 + target.toNat * 4 := by
    rw [toNat_append_eq_add, toNat_append_eq_add, BitVec.extractLsb'_toNat, Nat.shiftRight_eq_div_pow,
      show (0 : BitVec 2).toNat = 0 from rfl]
    omega
  apply BitVec.eq_of_toNat_eq
  calc (s.jumpTarget target).toNat
      = (s.currentPc.toNat / 2 ^ 28) <<< 28 ||| target.toNat * 4 := congrArg₂ (· ||| ·) hhigh hlow
    _ = (s.currentPc.toNat / 2 ^ 28) <<< 28 + target.toNat * 4 :=
        (Nat.shiftLeft_add_eq_or_of_lt (by omega) _).symm
    _ = s.currentPc.toNat / 2 ^ 28 * 2 ^ 28 + target.toNat * 4 := by rw [Nat.shiftLeft_eq]
    _ = _ := hparts.symm

/-! ## The shape of a control transfer (R220, R221) -/

@[simp] theorem State.executedBranch_reg (s : State) (b : Bool) (r : Reg) :
    ({ s with executedBranch := b } : State).reg r = s.reg r := rfl

/-- The body of a control transfer: it writes general registers and `next_pc` and nothing else (R220). -/
abbrev Redirects (body : State → State) : Prop :=
  ∀ x : State, { body x with regs := x.regs, nextPc := x.nextPc } = x

/-- Each of the twelve is `BranchEntry()` around such a body. -/
theorem exec_eq_branchEntry {i : Instr} (hi : i.isTransfer = true) :
    ∃ body, Redirects body ∧ ∀ s, exec i s = s.branchEntry body := by
  cases i
  case j | jal | jr | jalr | beq | bne | blez | bgtz | bltz | bgez | bltzal | bgezal =>
    simp only [exec, execJ, execJal, execJr, execJalr, execBeq, execBne, execBlez, execBgtz, execBltz, execBgez,
      execBltzal, execBgezal]
    exact ⟨_, fun _ => by simp, fun _ => rfl⟩
  all_goals cases hi

/-- In a delay slot a control transfer stops before its body runs. -/
theorem State.branchEntry_inDelaySlot {s : State} (body : State → State) (h : s.inDelaySlot = true) :
    s.branchEntry body = stopped s (.branchInDelaySlot s.cia) := if_pos h

/-- The frame of a control transfer outside a delay slot. -/
theorem Redirects.onlyBranch {body : State → State} (hbody : Redirects body) {s t : State}
    (h : s.branchEntry body = .next t) : OnlyBranch t.nextPc s t := by
  have hframe : { t with regs := s.regs, nextPc := s.nextPc, executedBranch := s.executedBranch } = s :=
    State.branchEntry_only hbody h
  refine ⟨rfl, ?_, hframe, fun a => ?_⟩
  · obtain ⟨-, rfl⟩ := State.branchEntry_eq_next.1 h
    exact (congrArg State.executedBranch (hbody _) :)
  · exact State.memRead_congr (congrArg State.cfg hframe :) (congrArg State.ram hframe :)
      (congrArg State.scratch hframe :) (congrArg State.bios hframe :) (congrArg State.dma hframe :)
      (congrArg (·.gpu.status) hframe :) a .byte

/-- A control transfer whose body makes `target` the next program counter. -/
theorem Redirects.completes {body : State → State} (hbody : Redirects body) {s : State} {target : Word}
    (htarget : (body { s with executedBranch := true }).nextPc = target) (hslot : s.inDelaySlot = false) :
    Completes (s.branchEntry body) fun t => OnlyBranch target s t ∧ t = body { s with executedBranch := true } := by
  have h : s.branchEntry body = .next (body { s with executedBranch := true }) :=
    State.branchEntry_eq_next.2 ⟨hslot, rfl⟩
  exact ⟨_, h, htarget ▸ hbody.onlyBranch h, rfl⟩

/-- A jump without a link (R225, R227). -/
theorem State.jump_completes {s : State} (dest : State → Word) {target : Word}
    (htarget : dest { s with executedBranch := true } = target) (hslot : s.inDelaySlot = false) :
    Completes (s.branchEntry fun x => x.jumpTo (dest x)) fun t => OnlyBranch target s t ∧ ∀ i, t.reg i = s.reg i := by
  obtain ⟨t, hnext, honly, rfl⟩ := Redirects.completes (body := fun x => x.jumpTo (dest x)) (fun _ => rfl) htarget hslot
  exact ⟨_, hnext, honly, fun i => by simp⟩

/-- A jump that links `rd`; with `rd = 0` nothing is linked (R226, R228). -/
theorem State.linkJump_completes {s : State} (rd : Reg) (dest : State → Word) {target : Word}
    (htarget : dest { s with executedBranch := true } = target) (hslot : s.inDelaySlot = false) :
    Completes (s.branchEntry fun x => (x.link rd).jumpTo (dest x)) fun t =>
      OnlyBranch target s t ∧ t.reg rd = written rd s.nextPc ∧ SameRegsBut rd s t := by
  obtain ⟨t, hnext, honly, rfl⟩ :=
    Redirects.completes (body := fun x => (x.link rd).jumpTo (dest x)) (fun _ => by simp) htarget hslot
  exact ⟨_, hnext, honly, by simp, fun r hr => by simp [hr]⟩

/-! ## Branches as jumps (R229) -/

/-- A branch that is not taken goes on at `next_pc`. -/
theorem State.branchIf_eq_jumpTo (s : State) (taken : Bool) (offset : Half) :
    s.branchIf taken offset = s.jumpTo (if taken then s.branchTarget offset else s.nextPc) := by
  cases taken <;> rfl

theorem State.branchTarget_link (s : State) (rd : Reg) (offset : Half) :
    (s.link rd).branchTarget offset = s.branchTarget offset := by
  simp [State.branchTarget]

/-- A branch on a condition on the state at entry. -/
theorem State.branch_branchesOn (s : State) (cond : State → Bool) {c : Bool} (offset : Half)
    (hc : cond { s with executedBranch := true } = c) :
    BranchesOn (s.branchEntry fun x => x.branchIf (cond x) offset) c offset s false := by
  subst hc
  refine ⟨fun hslot => ?_, s.branchEntry_inDelaySlot _⟩
  simp only [State.branchIf_eq_jumpTo]
  exact State.jump_completes (fun x => if cond x then x.branchTarget offset else x.nextPc) rfl hslot

/-- A branch on a condition on the state at entry, which links register 31 whether taken or not (R235, R236). -/
theorem State.linkBranch_branchesOn (s : State) (cond : State → Bool) {c : Bool} (offset : Half)
    (hc : cond { s with executedBranch := true } = c) :
    BranchesOn (s.branchEntry fun x => (x.link linkReg).branchIf (cond x) offset) c offset s true := by
  subst hc
  refine ⟨fun hslot => ?_, s.branchEntry_inDelaySlot _⟩
  simp only [State.branchIf_eq_jumpTo, State.branchTarget_link, State.link_nextPc]
  exact State.linkJump_completes linkReg (fun x => if cond x then x.branchTarget offset else x.nextPc) rfl hslot

/-! ## The statements -/

/-- Settles O39: each of the twelve is `BranchEntry()` around a body that leaves its mark alone. -/
theorem transferInDelaySlotStops : Obligations.TransferInDelaySlotStops := by
  intro i s hi
  obtain ⟨body, hbody, hexec⟩ := exec_eq_branchEntry hi
  rw [hexec]
  refine ⟨s.branchEntry_inDelaySlot body, fun hslot => ?_⟩
  obtain ⟨t, hnext, ⟨-, hmarked, -⟩, -⟩ := hbody.completes rfl hslot
  exact ⟨t, hnext, hmarked⟩

/-- Settles O37: each word is its row's, each jump is a body that jumps, linking first or not. -/
theorem jumps : Obligations.Jumps := by
  refine ⟨selects_row (.j 0) rfl, selects_row (.jal 0) rfl, selects_row (.jr 0) rfl, selects_row (.jalr 0 0) rfl,
    fun s rd rs target => ⟨fun hslot => ?outside, fun hslot i hi => ?inSlot⟩⟩
  case outside =>
    rw [← s.jumpTarget_eq_append target]
    exact ⟨State.jump_completes (·.jumpTarget target) rfl hslot,
      State.linkJump_completes linkReg (·.jumpTarget target) rfl hslot,
      State.jump_completes (·.reg rs) rfl hslot, State.linkJump_completes rd (·.reg rs) rfl hslot⟩
  case inSlot =>
    have htransfer : i.isTransfer = true := by
      simp only [List.mem_cons, List.not_mem_nil, or_false] at hi
      rcases hi with rfl | rfl | rfl | rfl <;> rfl
    exact (transferInDelaySlotStops i s htransfer).1 hslot

/-- Settles O38: each word is its row's, each branch tests the registers as they were at entry. -/
theorem branches : Obligations.Branches := by
  refine ⟨selects_row (.beq 0 0 0) rfl, selects_row (.bne 0 0 0) rfl, selects_row (.blez 0 0) rfl,
    selects_row (.bgtz 0 0) rfl, selects_row (.bltz 0 0) rfl, selects_row (.bgez 0 0) rfl,
    selects_row (.bltzal 0 0) rfl, selects_row (.bgezal 0 0) rfl, fun s rs rt offset => ?_⟩
  have hbne : (s.reg rs != s.reg rt) = decide (s.reg rs ≠ s.reg rt) := decide_not.symm
  have hblez : (!isPositive (s.reg rs)) = decide ((s.reg rs).toInt ≤ 0) :=
    decide_not.symm.trans (decide_eq_decide.2 Int.not_lt)
  have hbgez : (!isNegative (s.reg rs)) = decide (0 ≤ (s.reg rs).toInt) :=
    decide_not.symm.trans (decide_eq_decide.2 Int.not_lt)
  exact ⟨s.branch_branchesOn (fun x => x.reg rs == x.reg rt) offset rfl,
    s.branch_branchesOn (fun x => x.reg rs != x.reg rt) offset hbne,
    s.branch_branchesOn (fun x => !isPositive (x.reg rs)) offset hblez,
    s.branch_branchesOn (fun x => isPositive (x.reg rs)) offset rfl,
    s.branch_branchesOn (fun x => isNegative (x.reg rs)) offset rfl,
    s.branch_branchesOn (fun x => !isNegative (x.reg rs)) offset hbgez,
    s.linkBranch_branchesOn (fun x => isNegative (x.reg rs)) offset rfl,
    s.linkBranch_branchesOn (fun x => !isNegative (x.reg rs)) offset hbgez⟩

/-! ## The delay-slot timeline (R237) -/

/-- A control transfer that completes was in no delay slot, and is marked. -/
theorem exec_transfer_eq_next {i : Instr} {s t : State} (hi : i.isTransfer = true) (h : exec i s = .next t) :
    s.inDelaySlot = false ∧ t.executedBranch = true := by
  obtain ⟨body, hbody, hexec⟩ := exec_eq_branchEntry hi
  rw [hexec] at h
  obtain ⟨hslot, -⟩ := State.branchEntry_eq_next.1 h
  obtain ⟨-, hmarked, -⟩ := hbody.onlyBranch h
  exact ⟨hslot, hmarked⟩

/-- An instruction that can raise marks no branch, whether it raises or not. -/
theorem exec_raising_executedBranch {i : Instr} {s t : State} (hi : i.canRaise = true) (h : exec i s = .next t) :
    t.executedBranch = s.executedBranch := by
  cases i
  case add | sub | addi => rcases State.writeThenTrap_eq_next.1 h with ⟨-, rfl⟩ | ⟨-, -, -, rfl⟩ <;> simp
  case syscall | brk =>
    obtain ⟨-, rfl⟩ := State.raise_eq_next.1 h
    rfl
  all_goals cases hi

/-- Only a control transfer marks a branch. -/
theorem exec_executedBranch {i : Instr} {s t : State} (hi : i.isTransfer = false) (h : exec i s = .next t) :
    t.executedBranch = s.executedBranch := by
  cases hraise : i.canRaise
  case true => exact exec_raising_executedBranch hraise h
  case false =>
    obtain ⟨-, -, -, -, -, hpc, -⟩ := stateHasItsOwners i s t h
    exact (hpc hraise hi).2

/-- What a step that fetches and decodes `i` did. -/
theorem step_eq_next_of_decode {s t : State} {w : Word} {i : Instr} (hfetch : s.fetch = .ok w)
    (hdecode : decodeCpu w = .ok i) (h : step s = .next t) :
    ∃ u, exec i s.prologue = .next u ∧ t = u.epilogue := by
  obtain ⟨-, w', i', u, hfetch', hdecode', hu, rfl⟩ := step_eq_next h
  cases hfetch.symm.trans hfetch'
  cases hdecode.symm.trans hdecode'
  exact ⟨u, hu, rfl⟩

/-- Settles O14: the epilogue turns the mark into the delay slot, and only a control transfer sets it; the program
counters are those of the prologue but for what their owners write (O13). -/
theorem delaySlotTimeline : Obligations.DelaySlotTimeline := by
  intro s t w i hclear hfetch hdecode h
  obtain ⟨u, hu, rfl⟩ := step_eq_next_of_decode hfetch hdecode h
  obtain ⟨-, -, -, -, hcurrent, hnext, -⟩ := stateHasItsOwners i s.prologue u hu
  refine ⟨rfl, fun hi => ?transfer, fun hi => ?other, fun hi hraise => ?advance⟩
  case transfer =>
    obtain ⟨hslot, hmarked⟩ := exec_transfer_eq_next hi hu
    exact ⟨hslot, hmarked, hcurrent (Instr.canRaise_of_isTransfer hi)⟩
  case other => exact (exec_executedBranch hi hu).trans hclear
  case advance => exact ⟨hcurrent hraise, (hnext hraise hi).1⟩

end Sys2Proof.Machine
end

section
/-!
SUPPORT. Loads and stores: what each of the three shapes (R250, R251, R263) does while IsC is set and while it is clear,
and the merge tables (R261 to R264) as case splits on the low two address bits; O40, O41, O42, O43.
-/

namespace Sys2Proof.Machine

/-! ## Each access in one of the three shapes -/

/-- Settles O40: the test of IsC comes first in each of the three shapes. -/
theorem cacheIsolation : Obligations.CacheIsolation := by
  intro i s hi hiso
  have hload (rt : Reg) (a : Word) (n : Width) (f : Word → Word) : s.loadFrom rt a n f = .next s := if_pos hiso
  have hstore (a : Word) (n : Width) (v : Word) : s.storeTo a n v = .next s := if_pos hiso
  have hmerge (a : Word) (f : Word → Word) : s.mergeTo a f = .next s := if_pos hiso
  cases i
  case lb | lbu | lh | lhu | lw | lwl | lwr => exact hload ..
  case sb | sh | sw => exact hstore ..
  case swl | swr => exact hmerge ..
  all_goals cases hi

section

variable {s : State} {a : Word} (hiso : s.isolated = false)
include hiso

theorem State.loadFrom_of_read {n : Width} {v : Word} (h : s.memRead a n = .ok v) (rt : Reg) (f : Word → Word) :
    s.loadFrom rt a n f = .next (s.setReg rt (f v)) := by
  simp [State.loadFrom, hiso, h]

theorem State.loadFrom_of_stop {n : Width} {e : FatalReason} (h : s.memRead a n = .error e) (rt : Reg)
    (f : Word → Word) : s.loadFrom rt a n f = stopped s e := by
  simp [State.loadFrom, hiso, h, State.stop_eq]

theorem State.storeTo_eq_memWrite (n : Width) (v : Word) : s.storeTo a n v = s.memWrite a n v := by
  simp [State.storeTo, hiso]

theorem State.mergeTo_of_read {m : Word} (h : s.memRead a .word = .ok m) (f : Word → Word) :
    s.mergeTo a f = s.memWrite a .word (f m) := by
  simp [State.mergeTo, hiso, h]

theorem State.mergeTo_of_stop {e : FatalReason} (h : s.memRead a .word = .error e) (f : Word → Word) :
    s.mergeTo a f = stopped s e := by
  simp [State.mergeTo, hiso, h, State.stop_eq]

end

/-- A load through the Router (R250 to R252), the function it applies to the value read given by its values. -/
theorem State.loadFrom_loadsFrom (s : State) (rt : Reg) (a : Word) (n : Width) {f g : Word → Word}
    (hfg : ∀ v, f v = g v) : LoadsFrom (s.loadFrom rt a n f) rt a n g s := by
  obtain rfl : f = g := funext hfg
  refine ⟨fun hiso => if_pos hiso, fun hiso v hv => ?_, fun hiso e he => State.loadFrom_of_stop hiso he rt f⟩
  exact ⟨_, State.loadFrom_of_read hiso hv rt f, OnlyRegister.setReg s rt (f v)⟩

/-! ## Values loaded and stored (R253 to R259) -/

theorem zextByte_eq_ofNat (v : Word) : zextByte v = BitVec.ofNat 32 (v.toNat % 2 ^ 8) := by
  rw [zextByte, ← BitVec.toNat_setWidth, BitVec.ofNat_toNat]

theorem zextHalf_eq_ofNat (v : Word) : zextHalf v = BitVec.ofNat 32 (v.toNat % 2 ^ 16) := by
  rw [zextHalf, ← BitVec.toNat_setWidth, BitVec.ofNat_toNat]

theorem sextByte_eq_signExtend (v : Word) : sextByte v = (v.extractLsb' 0 8).signExtend 32 :=
  congrArg (BitVec.signExtend 32) (BitVec.setWidth_eq_extractLsb' (by decide))

theorem sextHalf_eq_signExtend (v : Word) : sextHalf v = (v.extractLsb' 0 16).signExtend 32 :=
  congrArg (BitVec.signExtend 32) (BitVec.setWidth_eq_extractLsb' (by decide))

/-- A table keyed by `ea[1:0]`, row by row (R261). -/
theorem lane_table {α : Type} (f : Nat → α) (ea : Word) :
    f (laneOf ea) =
      if ea.extractLsb' 0 2 = 0 then f 0 else if ea.extractLsb' 0 2 = 1 then f 1
      else if ea.extractLsb' 0 2 = 2 then f 2 else f 3 := by
  unfold laneOf
  generalize ea.extractLsb' 0 2 = k
  obtain rfl | rfl | rfl | rfl : k = 0 ∨ k = 1 ∨ k = 2 ∨ k = 3 := by revert k; decide
  all_goals rfl

/-! ## The statements -/

/-- Settles O41: each word is its row's, each load is a Router read whose value is extended. -/
theorem loads : Obligations.Loads := by
  refine ⟨selects_row (.lb 0 0 0) rfl, selects_row (.lbu 0 0 0) rfl, selects_row (.lh 0 0 0) rfl,
    selects_row (.lhu 0 0 0) rfl, selects_row (.lw 0 0 0) rfl, fun s rt rs imm => ?_⟩
  exact ⟨s.loadFrom_loadsFrom rt _ .byte sextByte_eq_signExtend, s.loadFrom_loadsFrom rt _ .byte zextByte_eq_ofNat,
    s.loadFrom_loadsFrom rt _ .half sextHalf_eq_signExtend, s.loadFrom_loadsFrom rt _ .half zextHalf_eq_ofNat,
    s.loadFrom_loadsFrom rt _ .word fun _ => rfl⟩

/-- Settles O42: each word is its row's, each load is a Router read of the aligned word merged by its table. -/
theorem unalignedLoads : Obligations.UnalignedLoads := by
  refine ⟨selects_row (.lwl 0 0 0) rfl, selects_row (.lwr 0 0 0) rfl, fun s rt rs imm => ?_⟩
  exact ⟨s.loadFrom_loadsFrom rt _ .word fun w => lane_table (mergeLwl · (s.reg rt) w) _,
    s.loadFrom_loadsFrom rt _ .word fun w => lane_table (mergeLwr · (s.reg rt) w) _⟩

/-- Settles O43: each word is its row's, each store is a Router write of the register's low bytes. -/
theorem stores : Obligations.Stores := by
  refine ⟨selects_row (.sb 0 0 0) rfl, selects_row (.sh 0 0 0) rfl, selects_row (.sw 0 0 0) rfl, fun s rt rs imm =>
    ⟨fun hiso => ?isolated, fun hiso => ?writes⟩⟩
  case isolated =>
    exact ⟨cacheIsolation (.sb rt rs imm) s rfl hiso, cacheIsolation (.sh rt rs imm) s rfl hiso,
      cacheIsolation (.sw rt rs imm) s rfl hiso⟩
  case writes =>
    exact ⟨(State.storeTo_eq_memWrite hiso .byte _).trans (congrArg (s.memWrite _ .byte) (truncWidth_eq .byte _)),
      (State.storeTo_eq_memWrite hiso .half _).trans (congrArg (s.memWrite _ .half) (truncWidth_eq .half _)),
      State.storeTo_eq_memWrite hiso .word _⟩

end Sys2Proof.Machine
end

section
/-!
SUPPORT. Stores into main memory and the scratchpad: every byte of the address space after a write of 1, 2 or 4 bytes
(R81), O44; `swl` and `swr` as such a write of the merged word (R263), O45.
-/

namespace Sys2Proof.Machine

/-! ## One byte after a write of several -/

/-- Every byte after a store: the value's inside the bytes stored, the old one elsewhere. -/
theorem Memory.read_writeLE_eq {m : Memory} (hm : m.wf) (o : Nat) (n : Width) (v : Word) (p : Nat) :
    (m.writeLE o n v).read p = if o ≤ p ∧ p < o + n.bytes then byteOf v (p - o) else m.read p := by
  split
  · next h => simpa [h.1] using read_writeLE m hm o n v (p - o) (by omega)
  · next h => exact read_writeLE_outside m o n v p (by omega)

section

variable (s : State) (m : Memory) (b : Word)

/-- A byte read after main memory was replaced. -/
theorem State.memRead_byte_of_ram :
    ({ s with ram := m } : State).memRead b .byte =
      if regionOf s.cfg (physOf b) = .ram then .ok ((m.read (ramOffset (physOf b))).setWidth 32)
      else s.memRead b .byte := by
  split
  · next h => exact State.memRead_ram (s := { s with ram := m }) (byte_aligned b) h
  · next h =>
    cases hr : regionOf s.cfg (physOf b)
    case ram => exact absurd hr h
    case io =>
      rw [State.memRead_io (byte_aligned b) hr]
      exact State.memRead_io (s := { s with ram := m }) (byte_aligned b) hr
    all_goals simp only [State.memRead, hr]

/-- A byte read after the scratchpad was replaced. -/
theorem State.memRead_byte_of_scratch :
    ({ s with scratch := m } : State).memRead b .byte =
      if regionOf s.cfg (physOf b) = .scratch then .ok ((m.read (scratchOffset s.cfg (physOf b))).setWidth 32)
      else s.memRead b .byte := by
  split
  · next h => exact State.memRead_scratch (s := { s with scratch := m }) (byte_aligned b) h
  · next h =>
    cases hr : regionOf s.cfg (physOf b)
    case scratch => exact absurd hr h
    case io =>
      rw [State.memRead_io (byte_aligned b) hr]
      exact State.memRead_io (s := { s with scratch := m }) (byte_aligned b) hr
    all_goals simp only [State.memRead, hr]

end

/-! ## Stores into main memory and the scratchpad (R81) -/

/-- Cutting a value to n bytes keeps those bytes. -/
theorem byteOf_truncWidth {n : Width} {k : Nat} (hk : k < n.bytes) (v : Word) :
    Memory.byteOf (truncWidth n v) k = Memory.byteOf v k := by
  rw [truncWidth_eq]
  apply BitVec.eq_of_toNat_eq
  simp only [Memory.byteOf, BitVec.extractLsb'_toNat, BitVec.toNat_ofNat, Nat.shiftRight_eq_div_pow]
  cases n <;> simp only [Width.bytes] at hk ⊢ <;> interval_cases k <;> omega

/-- Storing a value cut to n bytes stores the value. -/
theorem Memory.writeLE_truncWidth (m : Memory) (o : Nat) (n : Width) (v : Word) :
    m.writeLE o n (truncWidth n v) = m.writeLE o n v := by
  have hbyte (k : Nat) (hk : k < n.bytes) : byteOf (truncWidth n v) k = byteOf v k := byteOf_truncWidth hk v
  cases n <;> simp only [writeLE]
  · rw [hbyte 0 (by decide)]
  · rw [hbyte 0 (by decide), hbyte 1 (by decide)]
  · rfl

section

variable {s : State} (hram : s.ram.wf) (hscratch : s.scratch.wf) {a : Word} {n : Width} (ha : a.toNat % n.bytes = 0)
  (v : Word)
include hram hscratch ha

/-- A write into main memory or the scratchpad completes with the frame of its region. -/
theorem State.memWrite_storesIn : StoresIn (s.memWrite a n v) a n v s := by
  refine ⟨fun hr => ⟨_, State.memWrite_ram v ha hr, rfl, fun b => ?_⟩,
    fun hr => ⟨_, State.memWrite_scratch v ha hr, rfl, fun b => ?_⟩⟩
  · rw [State.memRead_byte_of_ram, Memory.read_writeLE_eq hram, ite_and (P := regionOf s.cfg (physOf b) = .ram)]
    split_ifs with hb
    · rfl
    · exact (State.memRead_ram (byte_aligned b) hb).symm
    · rfl
  · rw [State.memRead_byte_of_scratch, Memory.read_writeLE_eq hscratch,
      ite_and (P := regionOf s.cfg (physOf b) = .scratch)]
    split_ifs with hb
    · rfl
    · exact (State.memRead_scratch (byte_aligned b) hb).symm
    · rfl

/-- The same of a value cut to the n bytes. -/
theorem State.memWrite_truncWidth_storesIn : StoresIn (s.memWrite a n (truncWidth n v)) a n v s := by
  obtain ⟨hinRam, hinScratch⟩ := State.memWrite_storesIn hram hscratch ha v
  refine ⟨fun hr => ?_, fun hr => ?_⟩
  · rw [State.memWrite_ram _ ha hr, Memory.writeLE_truncWidth, ← State.memWrite_ram _ ha hr]
    exact hinRam hr
  · rw [State.memWrite_scratch _ ha hr, Memory.writeLE_truncWidth, ← State.memWrite_scratch _ ha hr]
    exact hinScratch hr

end

/-! ## The statements -/

/-- Settles O44: each is a Router write of the register's low bytes. -/
theorem storesWriteTheirBytes : Obligations.StoresWriteTheirBytes := by
  intro s rt rs imm hiso hram hscratch ea
  have hsb : exec (.sb rt rs imm) s = s.memWrite ea .byte (truncWidth .byte (s.reg rt)) :=
    State.storeTo_eq_memWrite hiso .byte _
  have hsh : exec (.sh rt rs imm) s = s.memWrite ea .half (truncWidth .half (s.reg rt)) :=
    State.storeTo_eq_memWrite hiso .half _
  have hsw : exec (.sw rt rs imm) s = s.memWrite ea .word (s.reg rt) := State.storeTo_eq_memWrite hiso .word _
  rw [hsb, hsh, hsw]
  exact ⟨State.memWrite_truncWidth_storesIn hram hscratch (byte_aligned ea) _,
    fun ha => State.memWrite_truncWidth_storesIn hram hscratch ha _,
    fun ha => State.memWrite_storesIn hram hscratch ha _⟩

/-- Settles O45: each word is its row's, each store is a Router read of the aligned word and a Router write of it
merged by its table. -/
theorem unalignedStores : Obligations.UnalignedStores := by
  refine ⟨selects_row (.swl 0 0 0) rfl, selects_row (.swr 0 0 0) rfl, fun s rt rs imm => ?_⟩
  intro ea a v left right
  have hleft (m : Word) : mergeSwl (laneOf ea) m v = left m := lane_table (mergeSwl · m v) ea
  have hright (m : Word) : mergeSwr (laneOf ea) m v = right m := lane_table (mergeSwr · m v) ea
  refine ⟨fun hiso => ?isolated, fun hiso e he => ?stops, fun hiso m hm => ?merges⟩
  case isolated => exact ⟨cacheIsolation (.swl rt rs imm) s rfl hiso, cacheIsolation (.swr rt rs imm) s rfl hiso⟩
  case stops => exact ⟨State.mergeTo_of_stop hiso he _, State.mergeTo_of_stop hiso he _⟩
  case merges =>
    have hswl : exec (.swl rt rs imm) s = s.memWrite a .word (left m) := by
      rw [← hleft]; exact State.mergeTo_of_read hiso hm _
    have hswr : exec (.swr rt rs imm) s = s.memWrite a .word (right m) := by
      rw [← hright]; exact State.mergeTo_of_read hiso hm _
    refine ⟨hswl, hswr, fun hram hscratch => ?_⟩
    rw [hswl, hswr]
    exact ⟨State.memWrite_storesIn hram hscratch (alignedWord_mod ea) _,
      State.memWrite_storesIn hram hscratch (alignedWord_mod ea) _⟩

end Sys2Proof.Machine
end

section
/-!
SUPPORT. The halves of an unaligned access (R265): the merge tables byte by byte, the aligned word of an address in main
memory, and that each half moves the bytes that lie in its own word.
-/

namespace Sys2Proof.Machine

/-! ## The merge tables byte by byte (R261 to R264) -/

/-- Two words with the same bytes are one word. -/
theorem word_eq_of_bytes {x y : Word} (h : ∀ j < 4, Memory.byteOf x j = Memory.byteOf y j) : x = y := by
  calc x = wordOfBytes (Memory.byteOf x 0) (Memory.byteOf x 1) (Memory.byteOf x 2) (Memory.byteOf x 3) :=
        (wordOfBytes_bytes x).symm
    _ = wordOfBytes (Memory.byteOf y 0) (Memory.byteOf y 1) (Memory.byteOf y 2) (Memory.byteOf y 3) := by
        rw [h 0 (by decide), h 1 (by decide), h 2 (by decide), h 3 (by decide)]
    _ = y := wordOfBytes_bytes y

/-- `swr`'s table as one shift: the bytes of `v` above `m`'s lowest k. -/
theorem mergeSwr_eq_shift {k : Nat} (hk : k < 4) (m v : Word) :
    mergeSwr k m v = (m &&& (BitVec.allOnes 32 >>> (32 - 8 * k))) ||| (v <<< (8 * k)) := by
  interval_cases k
  · exact BitVec.eq_of_toNat_eq (by simp [mergeSwr])
  all_goals rfl

/-- `lwr`'s table as one shift: the bytes of `w` below `c`'s highest k. -/
theorem mergeLwr_eq_shift {k : Nat} (hk : k < 4) (c w : Word) :
    mergeLwr k c w = (c &&& (BitVec.allOnes 32 <<< (32 - 8 * k))) ||| (w >>> (8 * k)) := by
  interval_cases k
  · exact BitVec.eq_of_toNat_eq (by simp [mergeLwr])
  all_goals rfl

theorem getLsbD_byteOf (v : Word) (k i : Nat) :
    (Memory.byteOf v k).getLsbD i = (decide (i < 8) && v.getLsbD (8 * k + i)) :=
  BitVec.getLsbD_extractLsb' ..

theorem byteOf_mergeSwr {k j : Nat} (hk : k < 4) (hj : j < 4) (m v : Word) :
    Memory.byteOf (mergeSwr k m v) j = if k ≤ j then Memory.byteOf v (j - k) else Memory.byteOf m j := by
  apply BitVec.eq_of_getLsbD_eq
  intro i hi
  rw [mergeSwr_eq_shift hk, getLsbD_byteOf, BitVec.getLsbD_or, BitVec.getLsbD_and, BitVec.getLsbD_ushiftRight,
    BitVec.getLsbD_allOnes, BitVec.getLsbD_shiftLeft]
  split
  · next h =>
    have hbit : 8 * j + i - 8 * k = 8 * (j - k) + i := by omega
    rw [getLsbD_byteOf, hbit]
    simp (disch := omega) [decide_eq_true, decide_eq_false]
  · next h =>
    rw [getLsbD_byteOf]
    simp (disch := omega) [decide_eq_true]

theorem byteOf_mergeLwr {k j : Nat} (hk : k < 4) (hj : j < 4) (c w : Word) :
    Memory.byteOf (mergeLwr k c w) j = if j + k < 4 then Memory.byteOf w (j + k) else Memory.byteOf c j := by
  apply BitVec.eq_of_getLsbD_eq
  intro i hi
  have hbit : 8 * k + (8 * j + i) = 8 * (j + k) + i := by omega
  rw [mergeLwr_eq_shift hk, getLsbD_byteOf, BitVec.getLsbD_or, BitVec.getLsbD_and, BitVec.getLsbD_shiftLeft,
    BitVec.getLsbD_allOnes, BitVec.getLsbD_ushiftRight, hbit]
  split
  · next h =>
    rw [getLsbD_byteOf]
    simp (disch := omega) [decide_eq_true]
  · next h =>
    rw [getLsbD_byteOf]
    simp (disch := omega) [decide_eq_true, decide_eq_false]

/-- `lwl` moves bytes up as `swr` does. -/
theorem mergeLwl_eq_mergeSwr {k : Nat} (hk : k < 4) (c w : Word) : mergeLwl k c w = mergeSwr (3 - k) c w := by
  interval_cases k <;> rfl

/-- `swl` moves bytes down as `lwr` does. -/
theorem mergeSwl_eq_mergeLwr {k : Nat} (hk : k < 4) (m v : Word) : mergeSwl k m v = mergeLwr (3 - k) m v := by
  interval_cases k <;> rfl

/-- Each byte of a word put together from four. -/
theorem byteOf_wordOfBytes (b : Nat → Byte) {k : Nat} (hk : k < 4) :
    Memory.byteOf (wordOfBytes (b 0) (b 1) (b 2) (b 3)) k = b k := by
  apply BitVec.eq_of_toNat_eq
  simp only [Memory.byteOf, BitVec.extractLsb'_toNat, wordOfBytes, toNat_append_eq_add, Nat.shiftRight_eq_div_pow]
  interval_cases k <;> omega

theorem byteOf_readLE_word (m : Memory) (o : Nat) {k : Nat} (hk : k < 4) :
    Memory.byteOf (m.readLE o .word) k = m.read (o + k) := byteOf_wordOfBytes (fun j => m.read (o + j)) hk

/-! ## The aligned word of an address in main memory (R71, R82) -/

theorem laneOf_eq (a : Word) : laneOf a = a.toNat % 4 := BitVec.extractLsb'_toNat 0 2 a

/-- The segment mask keeps every bit of an offset in main memory. -/
theorem ramOffset_physOf (a : Word) : ramOffset (physOf a) = a.toNat % 0x200000 := by
  rw [ramOffset_eq, physOf_toNat]
  split_ifs <;> omega

/-- The offset in main memory of the aligned word that holds `a`. -/
def wordOffset (a : Word) : Nat := ramOffset (physOf (alignedWord a))

theorem wordOffset_eq (a : Word) : wordOffset a = 4 * (a.toNat % 0x200000 / 4) := by
  rw [wordOffset, ramOffset_physOf, alignedWord_toNat]
  omega

theorem regionOf_physOf_alignedWord {c : Config} (hc : c.WellFormed) (a : Word) :
    regionOf c (physOf (alignedWord a)) = regionOf c (physOf a) := by
  apply regionOf_congr hc
  rw [physOf_toNat, physOf_toNat, alignedWord_toNat]
  split_ifs <;> omega

/-- The offset in main memory of the byte at displacement `j` of the base `e`. -/
def byteOffset (e : Word) (j : Nat) : Nat := ramOffset (physOf (e + BitVec.ofNat 32 j))

theorem byteOffset_eq (e : Word) (j : Nat) : byteOffset e j = (e.toNat + j) % 0x200000 := by
  rw [byteOffset, ramOffset_physOf, BitVec.toNat_add, BitVec.toNat_ofNat]
  omega

/-- Byte `j` of the four bytes from `e` on lies in the aligned word that holds `a`. -/
abbrev InWord (a e : Word) (j : Nat) : Prop := wordOffset a ≤ byteOffset e j ∧ byteOffset e j < wordOffset a + 4

/-- Wrapping at 2^32 changes no offset in main memory. -/
theorem toNat_add_three_mod (e : Word) : (e + 3).toNat % 0x200000 = (e.toNat + 3) % 0x200000 := by
  rw [BitVec.toNat_add, show (3 : Word).toNat = 3 from rfl]
  omega

/-- The words of the first byte and of the last hold all four. -/
theorem inWord_first_or_last (e : Word) {j : Nat} (hj : j < 4) : InWord e e j ∨ InWord (e + 3) e j := by
  have hlast := toNat_add_three_mod e
  simp only [InWord, wordOffset_eq, byteOffset_eq]
  omega

/-! ## The halves of a load -/

/-- What `lwl` at the last of four bytes from `e` on makes of the register `c` (R261). -/
def lwlHalf (m : Memory) (e c : Word) : Word :=
  mergeLwl (laneOf (e + 3)) c (m.readLE (wordOffset (e + 3)) .word)

/-- What `lwr` at the first of four bytes from `e` on makes of the register `c` (R262). -/
def lwrHalf (m : Memory) (e c : Word) : Word := mergeLwr (laneOf e) c (m.readLE (wordOffset e) .word)

theorem byteOf_lwlHalf (m : Memory) (e c : Word) {j : Nat} (hj : j < 4) :
    Memory.byteOf (lwlHalf m e c) j = if InWord (e + 3) e j then m.read (byteOffset e j) else Memory.byteOf c j := by
  have hlast := toNat_add_three_mod e
  have hlane := laneOf_eq (e + 3)
  rw [lwlHalf, mergeLwl_eq_mergeSwr (by omega), byteOf_mergeSwr (by omega) hj, byteOf_readLE_word _ _ (by omega)]
  simp only [InWord, wordOffset_eq, byteOffset_eq]
  split
  · next h => rw [if_pos (by omega)]; congr 1; omega
  · next h => rw [if_neg (by omega)]

theorem byteOf_lwrHalf (m : Memory) (e c : Word) {j : Nat} (hj : j < 4) :
    Memory.byteOf (lwrHalf m e c) j = if InWord e e j then m.read (byteOffset e j) else Memory.byteOf c j := by
  have hlane := laneOf_eq e
  rw [lwrHalf, byteOf_mergeLwr (by omega) hj]
  simp only [InWord, wordOffset_eq, byteOffset_eq]
  split
  · next h => rw [byteOf_readLE_word _ _ h, if_pos (by omega)]; congr 1; omega
  · next h => rw [if_neg (by omega)]

/-! ## The halves of a store -/

/-- `m'` is `m` with those of `v`'s four bytes that `P` picks stored from `e` on, and no other byte changed. -/
def PutsBytes (e v : Word) (P : Nat → Prop) (m m' : Memory) : Prop :=
  (∀ j < 4, P j → m'.read (byteOffset e j) = Memory.byteOf v j)
    ∧ ∀ o, (∀ j < 4, P j → o ≠ byteOffset e j) → m'.read o = m.read o

/-- No two of four bytes have the same offset. -/
theorem byteOffset_injective {e : Word} {i j : Nat} (hi : i < 4) (hj : j < 4) (h : byteOffset e i = byteOffset e j) :
    i = j := by
  simp only [byteOffset_eq] at h
  omega

/-- Two stores one after the other store the bytes of both. -/
theorem PutsBytes.trans {e v : Word} {P Q : Nat → Prop} {m m' m'' : Memory} (h : PutsBytes e v P m m')
    (h' : PutsBytes e v Q m' m'') : PutsBytes e v (fun j => P j ∨ Q j) m m'' := by
  obtain ⟨hput, hkeep⟩ := h
  obtain ⟨hput', hkeep'⟩ := h'
  refine ⟨fun j hj hPQ => ?_, fun o ho => ?_⟩
  · by_cases hQ : Q j
    · exact hput' j hj hQ
    · rw [hkeep' _ fun i hi hQi he => hQ (byteOffset_injective hj hi he ▸ hQi)]
      exact hput j hj (hPQ.resolve_right hQ)
  · rw [hkeep' o fun j hj hQ => ho j hj (.inr hQ), hkeep o fun j hj hP => ho j hj (.inl hP)]

/-- A word stored puts the bytes that lie in it, when it holds them and is else the word that stood there. -/
theorem putsBytes_writeLE {m : Memory} (hm : m.wf) {a e v x : Word}
    (hput : ∀ j < 4, InWord a e j → Memory.byteOf x (byteOffset e j - wordOffset a) = Memory.byteOf v j)
    (hkeep : ∀ i < 4, (∀ j < 4, wordOffset a + i ≠ byteOffset e j) → Memory.byteOf x i = m.read (wordOffset a + i)) :
    PutsBytes e v (InWord a e) m (m.writeLE (wordOffset a) .word x) := by
  refine ⟨fun j hj hin => ?_, fun o ho => ?_⟩
  · rw [Memory.read_writeLE_eq hm]
    exact (if_pos hin).trans (hput j hj hin)
  · rw [Memory.read_writeLE_eq hm]
    split
    · next h =>
      obtain ⟨i, rfl⟩ := Nat.exists_eq_add_of_le h.1
      have hi : i < 4 := Nat.lt_of_add_lt_add_left h.2
      rw [Nat.add_sub_cancel_left]
      exact hkeep i hi fun j hj he => ho j hj (by rw [InWord, ← he]; exact h) he
    · rfl

/-- What `swl` at the last of four bytes from `e` on makes of main memory (R263). -/
def swlHalf (m : Memory) (e v : Word) : Memory :=
  m.writeLE (wordOffset (e + 3)) .word (mergeSwl (laneOf (e + 3)) (m.readLE (wordOffset (e + 3)) .word) v)

/-- What `swr` at the first of four bytes from `e` on makes of main memory (R264). -/
def swrHalf (m : Memory) (e v : Word) : Memory :=
  m.writeLE (wordOffset e) .word (mergeSwr (laneOf e) (m.readLE (wordOffset e) .word) v)

theorem putsBytes_swlHalf {m : Memory} (hm : m.wf) (e v : Word) :
    PutsBytes e v (InWord (e + 3) e) m (swlHalf m e v) := by
  have hlast := toNat_add_three_mod e
  have hlane := laneOf_eq (e + 3)
  have hword := wordOffset_eq (e + 3)
  have hoffset := byteOffset_eq e
  refine putsBytes_writeLE hm (fun j hj hin => ?_) fun i hi hout => ?_
  · have := hoffset j
    rw [mergeSwl_eq_mergeLwr (by omega), byteOf_mergeLwr (by omega) (by omega), if_pos (by omega)]
    congr 1
    omega
  · rw [mergeSwl_eq_mergeLwr (by omega), byteOf_mergeLwr (by omega) hi, if_neg, byteOf_readLE_word _ _ hi]
    intro h
    have := hoffset (i + (3 - laneOf (e + 3)))
    exact hout _ h (by omega)

theorem putsBytes_swrHalf {m : Memory} (hm : m.wf) (e v : Word) : PutsBytes e v (InWord e e) m (swrHalf m e v) := by
  have hlane := laneOf_eq e
  have hword := wordOffset_eq e
  have hoffset := byteOffset_eq e
  refine putsBytes_writeLE hm (fun j hj hin => ?_) fun i hi hout => ?_
  · have := hoffset j
    rw [byteOf_mergeSwr (by omega) (by omega), if_pos (by omega)]
    congr 1
    omega
  · rw [byteOf_mergeSwr (by omega) hi, if_neg, byteOf_readLE_word _ _ hi]
    intro h
    have := hoffset (i - laneOf e)
    exact hout (i - laneOf e) (by omega) (by omega)

end Sys2Proof.Machine
end

section
/-!
SUPPORT. The unaligned idioms (R265) as sequences of two instructions, either half first: both move each byte that lies
in their own word to or from the same place, and the two words hold all four bytes; O46, O47.
-/

namespace Sys2Proof.Machine

/-! ## Register writes one after another -/

@[simp] theorem State.setReg_setReg (s : State) (i : Reg) (v w : Word) : (s.setReg i v).setReg i w = s.setReg i w := by
  unfold State.setReg
  split
  · rfl
  · simp

@[simp] theorem State.setReg_reg_self (s : State) (i : Reg) : s.setReg i (s.reg i) = s := by
  unfold State.setReg State.reg
  split
  · rfl
  · simp

/-! ## Addresses of the idiom -/

theorem State.effectiveAddress_zero (s : State) (rs : Reg) : s.effectiveAddress rs 0 = s.reg rs := BitVec.add_zero _

theorem State.effectiveAddress_three (s : State) (rs : Reg) : s.effectiveAddress rs 3 = s.reg rs + 3 := rfl

/-! ## The load idiom -/

/-- A register written twice from itself, by two functions that together leave nothing of what it held. -/
theorem andThen_completes_of_halves {s : State} {rt : Reg} {first second : State → Result} {f g : Word → Word}
    {x : Word} (hfirst : ∀ v, first (s.setReg rt v) = .next (s.setReg rt (f (written rt v))))
    (hsecond : ∀ v, second (s.setReg rt v) = .next (s.setReg rt (g (written rt v)))) (hx : ∀ c, g (f c) = x) :
    Completes ((first s).andThen second) (OnlyRegister rt x s) := by
  have h := hfirst (s.reg rt)
  rw [State.setReg_reg_self] at h
  rw [h, Result.next_andThen, hsecond]
  refine ⟨_, rfl, ?_⟩
  by_cases hrt : rt = 0
  · subst hrt
    exact OnlyRegister.setReg s 0 x
  · rw [written, if_neg hrt, hx]
    exact OnlyRegister.setReg s rt x

/-- A load of the aligned word around an address of main memory. -/
theorem State.loadFrom_alignedWord_ram {s : State} (hiso : s.isolated = false) (hc : s.cfg.WellFormed) {ea : Word}
    (hr : regionOf s.cfg (physOf ea) = .ram) (rt : Reg) (f : Word → Word) :
    s.loadFrom rt (alignedWord ea) .word f = .next (s.setReg rt (f (s.ram.readLE (wordOffset ea) .word))) :=
  State.loadFrom_of_read hiso
    (State.memRead_ram (alignedWord_mod ea) ((regionOf_physOf_alignedWord hc ea).trans hr)) rt f

section

variable {s : State} {rt rs : Reg} (hiso : s.sr.getLsbD 16 = false) (hne : rs ≠ rt) (hc : s.cfg.WellFormed) (v : Word)
include hiso hne hc

theorem exec_lwl_half (hr : regionOf s.cfg (physOf (s.reg rs + 3)) = .ram) :
    exec (.lwl rt rs 3) (s.setReg rt v) = .next (s.setReg rt
      (lwlHalf s.ram (s.reg rs) (written rt v))) := by
  have hbase : (s.setReg rt v).effectiveAddress rs 3 = s.reg rs + 3 := by
    rw [State.effectiveAddress_three, State.reg_setReg_other s rt rs v hne]
  rw [exec, execLwl, hbase, State.loadFrom_alignedWord_ram (by simpa [State.isolated] using hiso) (by simpa using hc)
    (by simpa using hr), State.setReg_setReg, State.setReg_ram, State.reg_setReg_self]
  rfl

theorem exec_lwr_half (hr : regionOf s.cfg (physOf (s.reg rs)) = .ram) :
    exec (.lwr rt rs 0) (s.setReg rt v) = .next (s.setReg rt
      (lwrHalf s.ram (s.reg rs) (written rt v))) := by
  have hbase : (s.setReg rt v).effectiveAddress rs 0 = s.reg rs := by
    rw [State.effectiveAddress_zero, State.reg_setReg_other s rt rs v hne]
  rw [exec, execLwr, hbase, State.loadFrom_alignedWord_ram (by simpa [State.isolated] using hiso) (by simpa using hc)
    (by simpa using hr), State.setReg_setReg, State.setReg_ram, State.reg_setReg_self]
  rfl

end

/-- Settles O46: each half takes the bytes that lie in its word, and the second leaves the others as the first put
them. -/
theorem unalignedLoadIdiom : Obligations.UnalignedLoadIdiom := by
  intro s rt rs hiso hne e byte hr hc
  have hlwl := fun v => exec_lwl_half hiso hne hc v (hr 3)
  have hlwr := fun v => exec_lwr_half hiso hne hc v (by simpa [e] using hr 0)
  have hbyte (c : Word) (j : Nat) (hj : j < 4) :
      Memory.byteOf (lwrHalf s.ram e (lwlHalf s.ram e c)) j = byte j
        ∧ Memory.byteOf (lwlHalf s.ram e (lwrHalf s.ram e c)) j = byte j := by
    rw [byteOf_lwrHalf _ _ _ hj, byteOf_lwlHalf _ _ _ hj, byteOf_lwlHalf _ _ _ hj, byteOf_lwrHalf _ _ _ hj]
    rcases inWord_first_or_last e hj with hfirst | hlast
    · simp only [if_pos hfirst, ite_self]
      exact ⟨rfl, rfl⟩
    · simp only [if_pos hlast, ite_self]
      exact ⟨rfl, rfl⟩
  exact ⟨andThen_completes_of_halves hlwl hlwr fun c => word_eq_of_bytes fun j hj =>
      (hbyte c j hj).1.trans (byteOf_wordOfBytes byte hj).symm,
    andThen_completes_of_halves hlwr hlwl fun c => word_eq_of_bytes fun j hj =>
      (hbyte c j hj).2.trans (byteOf_wordOfBytes byte hj).symm⟩

/-! ## The store idiom -/

/-- A merged store into the aligned word around an address of main memory. -/
theorem State.mergeTo_alignedWord_ram {s : State} (hiso : s.isolated = false) (hc : s.cfg.WellFormed) {ea : Word}
    (hr : regionOf s.cfg (physOf ea) = .ram) (f : Word → Word) :
    s.mergeTo (alignedWord ea) f = .next
      { s with ram := s.ram.writeLE (wordOffset ea) .word (f (s.ram.readLE (wordOffset ea) .word)) } := by
  have hword := (regionOf_physOf_alignedWord hc ea).trans hr
  rw [State.mergeTo_of_read hiso (State.memRead_ram (alignedWord_mod ea) hword),
    State.memWrite_ram _ (alignedWord_mod ea) hword]
  rfl

section

variable {s : State} {rt rs : Reg} (hiso : s.sr.getLsbD 16 = false) (hc : s.cfg.WellFormed) (m : Memory)
include hiso hc

theorem exec_swl_half (hr : regionOf s.cfg (physOf (s.reg rs + 3)) = .ram) :
    exec (.swl rt rs 3) { s with ram := m } = .next { s with ram := swlHalf m (s.reg rs) (s.reg rt) } :=
  State.mergeTo_alignedWord_ram (s := { s with ram := m }) hiso hc hr _

theorem exec_swr_half (hr : regionOf s.cfg (physOf (s.reg rs)) = .ram) :
    exec (.swr rt rs 0) { s with ram := m } = .next { s with ram := swrHalf m (s.reg rs) (s.reg rt) } := by
  have hbase : ({ s with ram := m } : State).effectiveAddress rs 0 = s.reg rs := State.effectiveAddress_zero _ rs
  rw [exec, execSwr, hbase]
  exact State.mergeTo_alignedWord_ram (s := { s with ram := m }) hiso hc hr _

end

/-- Settles O47: each half stores the bytes that lie in its word, and the two words hold all four. -/
theorem unalignedStoreIdiom : Obligations.UnalignedStoreIdiom := by
  intro s rt rs hiso e at_ stored hr hc hwf
  have hr0 : regionOf s.cfg (physOf e) = .ram := by simpa using hr 0
  have hswl (m : Memory) := exec_swl_half (rt := rt) hiso hc m (hr 3)
  have hswr (m : Memory) := exec_swr_half (rt := rt) hiso hc m hr0
  have hstored {P : Nat → Prop} {m : Memory} (hP : ∀ j < 4, P j) (h : PutsBytes e (s.reg rt) P s.ram m) :
      stored { s with ram := m } := by
    obtain ⟨hput, hkeep⟩ := h
    exact ⟨rfl, fun k => hput k k.isLt (hP k k.isLt), fun o ho => hkeep o fun j hj _ => ho ⟨j, hj⟩⟩
  refine ⟨⟨_, Result.andThen_eq_next.2 ⟨_, hswl s.ram, hswr _⟩, hstored (fun j hj => ?_) <|
      (putsBytes_swlHalf hwf _ _).trans (putsBytes_swrHalf (Memory.wf_writeLE hwf ..) _ _)⟩,
    ⟨_, Result.andThen_eq_next.2 ⟨_, hswr s.ram, hswl _⟩, hstored (fun j hj => ?_) <|
      (putsBytes_swrHalf hwf _ _).trans (putsBytes_swlHalf (Memory.wf_writeLE hwf ..) _ _)⟩⟩
  · exact (inWord_first_or_last e hj).symm
  · exact inWord_first_or_last e hj

end Sys2Proof.Machine
end

section
/-!
SUPPORT. System instructions and coprocessor 0: the three registers by their numbers (R281), the write of `cause`
(R286), and the mode stack moved up by exception entry (R416) and down by `rfe` (R287); O48, O49, O50.
-/

namespace Sys2Proof.Machine

/-! ## The mode stack (R287, R288) -/

/-- The mode stack after `rfe` in three parts: bits 31:6 as before, two zeros, the old bits 5:2 (R287). -/
theorem popModeStack_eq_append (sr : Word) :
    popModeStack sr = sr.extractLsb' 6 26 ++ (0 : BitVec 2) ++ sr.extractLsb' 2 4 := by
  have hmasks : popModeStack sr
      = (sr &&& BitVec.allOnes 32 <<< 6) ||| ((sr &&& (BitVec.allOnes 6).setWidth 32) >>> 2) := rfl
  refine hmasks.trans (BitVec.eq_of_getLsbD_eq fun i hi => ?_)
  rw [BitVec.getLsbD_append, BitVec.getLsbD_append]
  simp only [BitVec.getLsbD_extractLsb', BitVec.getLsbD_or, BitVec.getLsbD_and, BitVec.getLsbD_shiftLeft,
    BitVec.getLsbD_ushiftRight, BitVec.getLsbD_setWidth, BitVec.getLsbD_allOnes]
  obtain hmoved | hcleared | hhigh : i < 4 ∨ (4 ≤ i ∧ i < 6) ∨ 6 ≤ i := by omega
  · grind
  · grind
  · grind

/-- The mode stack after exception entry and return: the old pair, bits 5:4, is cleared. -/
theorem popModeStack_pushModeStack (sr : Word) :
    popModeStack (pushModeStack sr) = sr.extractLsb' 6 26 ++ (0 : BitVec 2) ++ sr.extractLsb' 0 4 := by
  rw [popModeStack_eq_append, pushModeStack_eq_append, BitVec.extractLsb'_append_eq_of_le (by decide),
    BitVec.extractLsb'_append_eq_left, BitVec.extractLsb'_append_eq_of_le (by decide),
    BitVec.extractLsb'_append_eq_right]

theorem append_modeStackParts (sr : Word) : sr.extractLsb' 6 26 ++ sr.extractLsb' 4 2 ++ sr.extractLsb' 0 4 = sr := by
  rw [BitVec.extractLsb'_append_extractLsb'_eq_extractLsb' (by decide),
    BitVec.extractLsb'_append_extractLsb'_eq_extractLsb' (by decide), BitVec.extractLsb'_eq_self]

/-- Exception entry and then return loses the old pair and nothing else (R288). -/
theorem popModeStack_pushModeStack_eq_self_iff (sr : Word) :
    popModeStack (pushModeStack sr) = sr ↔ sr.extractLsb' 4 2 = 0 :=
  calc popModeStack (pushModeStack sr) = sr
      ↔ sr.extractLsb' 6 26 ++ (0 : BitVec 2) ++ sr.extractLsb' 0 4
          = sr.extractLsb' 6 26 ++ sr.extractLsb' 4 2 ++ sr.extractLsb' 0 4 := by
        rw [popModeStack_pushModeStack, append_modeStackParts]
    _ ↔ sr.extractLsb' 4 2 = 0 := by rw [BitVec.append_left_inj, BitVec.append_right_inj, eq_comm]

/-! ## The registers of coprocessor 0 by their numbers (R281) -/

theorem cop0Reg_eq_none {rd : Reg} (hsr : rd ≠ 12) (hcause : rd ≠ 13) (hepc : rd ≠ 14) : cop0Reg rd = none := by
  unfold cop0Reg
  split
  case h_1 h => exact absurd (BitVec.eq_of_toNat_eq h) hsr
  case h_2 h => exact absurd (BitVec.eq_of_toNat_eq h) hcause
  case h_3 h => exact absurd (BitVec.eq_of_toNat_eq h) hepc
  case h_4 => rfl

section

variable {s : State} {rt rd : Reg}

/-- A move from a register of coprocessor 0 writes one general register (R285). -/
theorem execMfc0_of_some {r : Cop0Reg} (h : cop0Reg rd = some r) :
    execMfc0 rt rd s = .next (s.setReg rt (s.cop0Read r)) := by
  rw [execMfc0, h]

theorem execMfc0_of_none (h : cop0Reg rd = none) : execMfc0 rt rd s = stopped s (.unknownCop0Register s.cia rd) := by
  rw [execMfc0, h, State.stop_eq]

theorem execMtc0_of_some {r : Cop0Reg} (h : cop0Reg rd = some r) : execMtc0 rt rd s = s.cop0Write r (s.reg rt) := by
  rw [execMtc0, h]

theorem execMtc0_of_none (h : cop0Reg rd = none) : execMtc0 rt rd s = stopped s (.unknownCop0Register s.cia rd) := by
  rw [execMtc0, h, State.stop_eq]

end

/-! ## The write of `cause` (R286) -/

section

variable {s : State} {v : Word}

theorem State.causeWrite_of_ne (h : v ≠ 0) : s.causeWrite v = stopped s (.cop0CauseWrite s.cia v) := if_pos h

theorem State.causeWrite_ignore (h : v = 0) (hmode : s.cfg.causeWriteZero = .ignore) : s.causeWrite v = .next s := by
  rw [State.causeWrite, if_neg (not_not_intro h), hmode]

theorem State.causeWrite_clear (h : v = 0) (hmode : s.cfg.causeWriteZero = .clear) :
    s.causeWrite v = .next { s with cause := 0 } := by
  rw [State.causeWrite, if_neg (not_not_intro h), hmode]

end

/-! ## The statements -/

/-- Settles O48: both raise their exception. -/
theorem trapInstructions : Obligations.TrapInstructions :=
  ⟨selects_row .syscall rfl, selects_row .brk rfl, fun _ =>
    ⟨fun h => ⟨State.raise_takesException codeSys h, State.raise_takesException codeBp h⟩,
      fun h => ⟨State.raise_inDelaySlot codeSys h, State.raise_inDelaySlot codeBp h⟩⟩⟩

/-- Settles O49: each number names its register or none, and the moves read and write what it names. -/
theorem coprocessorMoves : Obligations.CoprocessorMoves := by
  refine ⟨selects_row (.mfc0 0 0) rfl, selects_row (.mtc0 0 0) rfl, fun s rt => ?_⟩
  have hsr : cop0Reg 12 = some .sr := rfl
  have hcause : cop0Reg 13 = some .cause := rfl
  have hepc : cop0Reg 14 = some .epc := rfl
  have hread {rd : Reg} {r : Cop0Reg} (h : cop0Reg rd = some r) :
      Completes (exec (.mfc0 rt rd) s) (OnlyRegister rt (s.cop0Read r) s) :=
    ⟨_, execMfc0_of_some h, OnlyRegister.setReg ..⟩
  exact ⟨hread hsr, hread hcause, hread hepc, execMtc0_of_some hsr, execMtc0_of_some hepc,
    fun hne => (execMtc0_of_some hcause).trans (State.causeWrite_of_ne hne),
    fun hzero hmode => (execMtc0_of_some hcause).trans (State.causeWrite_ignore hzero hmode),
    fun hzero hmode => (execMtc0_of_some hcause).trans (State.causeWrite_clear hzero hmode),
    fun rd h12 h13 h14 =>
      ⟨execMfc0_of_none (cop0Reg_eq_none h12 h13 h14), execMtc0_of_none (cop0Reg_eq_none h12 h13 h14)⟩⟩

/-- Settles O50: `rfe` pops the mode stack, and what entry pushed comes back but for the old pair. -/
theorem returnFromException : Obligations.ReturnFromException := by
  refine ⟨selects_row .rfe rfl, fun s => ⟨?_, fun hslot => ?_⟩⟩
  · rw [← popModeStack_eq_append]
    rfl
  · exact ⟨_, Result.andThen_eq_next.2 ⟨_, State.raise_eq_next.2 ⟨hslot, rfl⟩, rfl⟩,
      popModeStack_pushModeStack_eq_self_iff s.sr⟩

end Sys2Proof.Machine
end

section
/-!
SUPPORT. The DMA registers: the interrupt-control register, O21, completion, O26, and the channel-control write, O22.
-/

namespace Sys2Proof.Machine

/-! ## The interrupt-control register (R305, R306) -/

/-- Two bit strings meet exactly in a bit that both hold. -/
theorem and_bne_zero_iff {k : Nat} (x y : BitVec k) :
    (x &&& y != 0) = true ↔ ∃ n : Fin k, x.getLsbD n = true ∧ y.getLsbD n = true := by
  rw [bne_iff_ne, ← not_iff_not, not_not]
  constructor
  · rintro h ⟨n, hx, hy⟩
    have hbit := congrArg (BitVec.getLsbD · n) h
    rw [BitVec.getLsbD_and, hx, hy] at hbit
    simp at hbit
  · intro h
    refine BitVec.eq_of_getLsbD_eq fun i hi => ?_
    rw [BitVec.getLsbD_and]
    simpa using fun hx hy => h ⟨⟨i, hi⟩, hx, hy⟩

/-- Each bit of the word read is a bit of the one field that stands there: bit by bit, the other fields hold 0. -/
theorem Dma.getLsbD_dicrRead (d : Dma) {k : Nat} (hk : k < 32) : d.dicrRead.getLsbD k =
    if k < 6 then d.dicrLow6.getLsbD k
    else if k < 15 then false
    else if k = 15 then d.dicrForce
    else if k < 23 then d.dicrEn.getLsbD (k - 16)
    else if k = 23 then d.dicrMaster
    else if k < 31 then d.dicrFlags.getLsbD (k - 24)
    else d.masterFlag := by
  simp only [Dma.dicrRead, bit, BitVec.getLsbD_or, BitVec.getLsbD_shiftLeft, BitVec.getLsbD_setWidth,
    BitVec.getLsbD_ofBool]
  interval_cases k <;> simp

theorem Dma.masterFlag_eq (d : Dma) : d.masterFlag = (d.dicrForce || (d.dicrMaster && decide (∃ n : ChannelId,
    d.dicrFlags.getLsbD n = true ∧ d.dicrEn.getLsbD n = true))) := by
  unfold Dma.masterFlag
  congr 2
  rw [Bool.eq_iff_iff, decide_eq_true_iff, and_bne_zero_iff]

/-- A written 1 in a flag bit clears the flag (R306). -/
theorem Dma.getLsbD_dicrFlags_dicrWrite (d : Dma) (v : Word) (n : ChannelId) :
    (d.dicrWrite v).dicrFlags.getLsbD n = (d.dicrFlags.getLsbD n && !v.getLsbD (24 + n)) := by
  have hn : n.val < 7 := n.isLt
  simp [Dma.dicrWrite, hn]

/-- Settles O21: each field of the word read stands in its own bits, and a write sets each from its bits. -/
theorem interruptControlRegister : Obligations.InterruptControlRegister := fun d v =>
  ⟨fun _ hk => d.masterFlag_eq ▸ d.getLsbD_dicrRead hk, rfl, rfl, rfl, rfl, d.getLsbD_dicrFlags_dicrWrite v, rfl, rfl,
    rfl⟩

/-! ## Completion (R323, R324) -/

/-- Completion sets its channel's flag, if enabled, and leaves the others. -/
theorem Dma.getLsbD_dicrFlags_flagCompletion (d : Dma) (n m : ChannelId) :
    (d.flagCompletion n).dicrFlags.getLsbD m =
      if m = n ∧ d.dicrEn.getLsbD n = true then true else d.dicrFlags.getLsbD m := by
  unfold Dma.flagCompletion
  cases hen : d.dicrEn.getLsbD n with
  | false => simp
  | true =>
    have hone : (1#7 <<< n.val).getLsbD m = decide (n.val = m.val) := by
      rw [← BitVec.twoPow_eq, BitVec.getLsbD_twoPow, decide_eq_true n.isLt, Bool.true_and]
    rw [if_pos rfl, BitVec.getLsbD_or, BitVec.ofNat_eq_ofNat, hone]
    by_cases h : m = n
    · simp [h]
    · simp [h, Ne.symm (Fin.val_ne_of_ne h)]

theorem Dma.signals_iff (d : Dma) (n : ChannelId) :
    d.signals n = true ↔ d.dicrForce = true ∨ d.dicrMaster = true ∧ d.dicrEn.getLsbD n = true := by
  rw [Dma.signals, Bool.or_eq_true_iff, Bool.and_eq_true_iff]

theorem State.signalDma_irqPending (s : State) (n : ChannelId) :
    (s.signalDma n).dma.irqPending = if s.dma.signals n then true else s.dma.irqPending := by
  unfold State.signalDma; split <;> rfl

theorem State.signalDma_devLog (s : State) (n : ChannelId) :
    (s.signalDma n).devLog = if s.dma.signals n then s.devLog ++ [.dmaIrq n] else s.devLog := by
  unfold State.signalDma; split <;> rfl

/-- Signalling changes the pending bit and the log alone. -/
theorem State.signalDma_dma (s : State) (n : ChannelId) :
    { (s.signalDma n).dma with irqPending := s.dma.irqPending } = s.dma := by
  unfold State.signalDma; split <;> rfl

theorem dmaComplete_dicrFlags (n : ChannelId) (s : State) :
    (dmaComplete n s).dma.dicrFlags = (s.dma.flagCompletion n).dicrFlags := 
  (congrArg Dma.dicrFlags (State.signalDma_dma _ n) :)

/-- The condition is read off registers that completion does not write, so off those it found. -/
theorem dmaComplete_irqPending (n : ChannelId) (s : State) :
    (dmaComplete n s).dma.irqPending = if s.dma.signals n then true else s.dma.irqPending :=
  State.signalDma_irqPending ..

theorem dmaComplete_devLog (n : ChannelId) (s : State) :
    (dmaComplete n s).devLog = if s.dma.signals n then s.devLog ++ [.dmaIrq n] else s.devLog :=
  State.signalDma_devLog ..

/-- Completion changes the channels, the flags, the pending bit and the log alone. -/
theorem dmaComplete_dma (n : ChannelId) (s : State) :
    { (dmaComplete n s).dma with
      channels := s.dma.channels, dicrFlags := s.dma.dicrFlags, irqPending := s.dma.irqPending } = s.dma := by
  unfold dmaComplete State.signalDma
  simp only
  split <;> rfl

/-- Settles O26: each register that completion writes, one by one. -/
theorem completion : Obligations.Completion := by
  intro s n
  refine ⟨dmaComplete_channels n s, fun m => ?_, ?_, ?_⟩
  · rw [dmaComplete_dicrFlags, Dma.getLsbD_dicrFlags_flagCompletion]
  · simp only [dmaComplete_irqPending, dmaComplete_devLog, ← Dma.signals_iff]
    exact ⟨fun h => ⟨if_pos h, if_pos h⟩, fun h => ⟨if_neg h, if_neg h⟩⟩
  · rw [dmaComplete_dma]
    exact dmaComplete_only n s

/-! ## A write of a channel-control register (R307, R308) -/

theorem chcrActive_iff (c : Word) :
    chcrActive c = true ↔ c.getLsbD 24 = true ∧ (c.extractLsb' 9 2 ≠ 0 ∨ c.getLsbD 28 = true) := by
  simp only [chcrActive, chcrEnable, chcrSync, chcrTrigger, Bool.and_eq_true_iff, Bool.or_eq_true_iff, bne_iff_ne]

theorem chcrWrite_of_active {v : Word} (h : chcrActive v = true) (n : ChannelId) (s : State) :
    chcrWrite n v s = dmaTransfer n (s.setChcr n v) := if_pos h

theorem chcrWrite_of_not_active {v : Word} (h : ¬chcrActive v = true) (n : ChannelId) (s : State) :
    chcrWrite n v s = .next (s.setChcr n v) := if_neg h

theorem dmaTransfer_of_next {n : ChannelId} {s t : State} (h : dmaRun n s = .next t) :
    dmaTransfer n s = .next (dmaComplete n t) := by
  rw [dmaTransfer, h, Result.next_andThen]

theorem dmaTransfer_of_fault {n : ChannelId} {s : State} {e : Fault} (h : dmaRun n s = .fault e) :
    dmaTransfer n s = .fault e := by
  rw [dmaTransfer, h, Result.fault_andThen]

/-- Settles O22: the two conjuncts of the active predicate, and the transfer followed by its completion. -/
theorem controlWriteStartsTransfer : Obligations.ControlWriteStartsTransfer := by
  intro s n v
  simp only [← chcrActive_iff]
  exact ⟨fun h => chcrWrite_of_not_active h n s,
    fun h _ hrun => (chcrWrite_of_active h n s).trans (dmaTransfer_of_next hrun),
    fun h _ hrun => (chcrWrite_of_active h n s).trans (dmaTransfer_of_fault hrun)⟩

end Sys2Proof.Machine
end

section
/-!
SUPPORT. Block transfers: the words of a GPU block, O25, the ordering-table clear, O24, the dispatch on the sync mode,
O23, and what a transfer leaves alone, O27.
-/

namespace Sys2Proof.Machine

/-! ## The units of a block (R315, R319) -/

/-- The running address after `k` units. -/
def dmaAddr (c addr : Word) (k : Nat) : Word :=
  if chcrStepDown c then addr - BitVec.ofNat 32 (4 * k) else addr + BitVec.ofNat 32 (4 * k)

@[simp] theorem dmaAddr_zero (c addr : Word) : dmaAddr c addr 0 = addr := by
  unfold dmaAddr; split <;> simp

theorem dmaAddr_dmaNext (c addr : Word) (k : Nat) : dmaAddr c (dmaNext c addr) k = dmaAddr c addr (k + 1) := by
  have hstep : BitVec.ofNat 32 (4 * (k + 1)) = 4 + BitVec.ofNat 32 (4 * k) := by
    rw [Nat.mul_add, Nat.add_comm, BitVec.ofNat_add]
    rfl
  unfold dmaAddr dmaNext
  split
  · rw [hstep, sub_add_eq_sub_sub]
  · rw [hstep, BitVec.add_assoc]

/-- The offset of the word that a running address names. -/
theorem toNat_and_ramWordMask (a : Word) : (a &&& ramWordMask).toNat = 4 * (a.toNat / 4) % 0x200000 := by
  rw [← alignedWord_toNat, ← ramOffset_eq, ramOffset, alignedWord, BitVec.and_assoc]
  rfl

/-- Units fewer than a whole memory apart have words that share no byte. -/
theorem dmaAddr_disjoint (c addr : Word) {k i : Nat} (hk : 0 < k) (hk' : k < 0x80000) (hi : i < 4) :
    ¬((dmaAddr c addr k &&& ramWordMask).toNat ≤ (addr &&& ramWordMask).toNat + i
      ∧ (addr &&& ramWordMask).toNat + i < (dmaAddr c addr k &&& ramWordMask).toNat + 4) := by
  rw [toNat_and_ramWordMask, toNat_and_ramWordMask]
  unfold dmaAddr
  split
  · rw [BitVec.toNat_sub, BitVec.toNat_ofNat]
    omega
  · rw [BitVec.toNat_add, BitVec.toNat_ofNat]
    omega

theorem dmaUnit_otc {c : Word} (hc : chcrFromRam c = false) (rem : Nat) (addr : Word) (s : State) :
    dmaUnit otcChannel c rem addr s = .next (s.setRamWord (addr &&& ramWordMask) (otcValue rem addr)) :=
  if_pos ⟨hc, rfl⟩

theorem dmaUnit_gpu {c : Word} (hc : chcrFromRam c = true) (rem : Nat) (addr : Word) (s : State) :
    dmaUnit gpuChannel c rem addr s = s.gp0 (s.ramWord (addr &&& ramWordMask)) := by
  unfold dmaUnit
  rw [if_neg (by simp [hc]), if_pos ⟨hc, rfl⟩]

/-- The devices and directions that the engine serves (R316). -/
abbrev DmaServed (n : ChannelId) (c : Word) : Prop := n = 6 ∧ c.getLsbD 0 = false ∨ n = 2 ∧ c.getLsbD 0 = true

theorem dmaUnit_unserved {n : ChannelId} {c : Word} (h : ¬DmaServed n c) (rem : Nat) (addr : Word) (s : State) :
    dmaUnit n c rem addr s = stopped s (.dmaUnsupported n c) := by
  rw [not_or] at h
  unfold dmaUnit
  rw [if_neg fun ⟨hdir, hn⟩ => h.1 ⟨hn, hdir⟩, if_neg fun ⟨hdir, hn⟩ => h.2 ⟨hn, hdir⟩]
  rfl

/-- The test of R316 is inside the loop: a block that moves a unit stops at the first. -/
theorem dmaBlock_unserved {n : ChannelId} {c : Word} (h : ¬DmaServed n c) {len : Nat} (hlen : len ≠ 0) (addr : Word)
    (s : State) : dmaBlock n c len addr s = stopped s (.dmaUnsupported n c) := by
  obtain ⟨rem, rfl⟩ := Nat.exists_eq_succ_of_ne_zero hlen
  rw [dmaBlock_succ, dmaUnit_unserved h, Result.fault_andThen]

/-! ## A GPU block (R318) -/

/-- Two ways to go on that agree on the state reached end the same. -/
theorem Result.andThen_congr {r : Result} {f g : State → Result} (h : ∀ s, r = .next s → f s = g s) :
    r.andThen f = r.andThen g := by
  cases r with
  | next s => exact h s rfl
  | fault | refused => rfl

theorem State.gp0_ramWord {s t : State} {w : Word} (h : s.gp0 w = .next t) (o : Word) : t.ramWord o = s.ramWord o := by
  obtain ⟨g, -, rfl⟩ := State.gp0_eq_next.1 h
  rfl

theorem dmaBlock_gpu {c : Word} (hc : chcrFromRam c = true) (len : Nat) (addr : Word) (s : State) :
    dmaBlock gpuChannel c len addr s =
      s.gp0Stream ((List.range len).map fun k => s.ramWord (dmaAddr c addr k &&& ramWordMask)) := by
  induction len generalizing addr s with
  | zero => rfl
  | succ len ih =>
    rw [dmaBlock_succ, dmaUnit_gpu hc, List.range_succ_eq_map, List.map_cons, List.map_map, State.gp0Stream_cons,
      dmaAddr_zero]
    refine Result.andThen_congr fun s' hs' => ?_
    rw [ih]
    simp only [State.gp0_ramWord hs', dmaAddr_dmaNext, Function.comp_def]

/-- Settles O25: unit `k` hands over the word at the running address after `k` units. -/
theorem gpuBlockIsAStream : Obligations.GpuBlockIsAStream := fun s _ addr len hc => dmaBlock_gpu hc len addr s

/-! ## The ordering-table clear (R317) -/

/-- `t` is `s` with the words of `len` units written as R317 has them, and no other byte. -/
structure OtcCleared (c addr : Word) (len : Nat) (s t : State) : Prop where
  only : OnlyRam s t
  unit : ∀ k, k < len → t.ramWord (dmaAddr c addr k &&& ramWordMask) = otcValue (len - k) (dmaAddr c addr k)
  rest : ∀ o : Nat, (∀ k, k < len → ¬((dmaAddr c addr k &&& ramWordMask).toNat ≤ o
    ∧ o < (dmaAddr c addr k &&& ramWordMask).toNat + 4)) → t.ram.read o = s.ram.read o

/-- The first unit's word is written, and the units after it leave it alone. -/
theorem OtcCleared.cons {c addr : Word} {len : Nat} {s t : State} (hlen : len < 0x80000) (hs : s.ram.wf)
    (h : OtcCleared c (dmaNext c addr) len (s.setRamWord (addr &&& ramWordMask) (otcValue (len + 1) addr)) t) :
    OtcCleared c addr (len + 1) s t := by
  obtain ⟨honly, hunit, hrest⟩ := h
  simp only [dmaAddr_dmaNext] at hunit hrest
  refine ⟨congrArg (fun x : State => { x with ram := s.ram }) honly, fun k hk => ?_, fun o ho => ?_⟩
  · cases k with
    | zero =>
      rw [dmaAddr_zero, ← Memory.readLE_writeLE_word s.ram hs (addr &&& ramWordMask).toNat (otcValue _ addr)]
      exact Memory.readLE_congr fun i hi => hrest _ fun k hk => dmaAddr_disjoint c addr k.succ_pos (by omega) hi
    | succ k =>
      rw [hunit k (by omega), Nat.add_sub_add_right]
  · have hfirst := ho 0 len.succ_pos
    rw [dmaAddr_zero] at hfirst
    rw [hrest o fun k hk => ho (k + 1) (by omega)]
    exact Memory.read_writeLE_outside _ _ .word _ o (by simp only [Width.bytes]; omega)

theorem dmaBlock_otc {c : Word} (hc : chcrFromRam c = false) {len : Nat} (hlen : len ≤ 0x80000) (addr : Word)
    {s : State} (hs : s.ram.wf) : Completes (dmaBlock otcChannel c len addr s) (OtcCleared c addr len s) := by
  induction len generalizing addr s with
  | zero => exact ⟨s, rfl, rfl, nofun, fun _ _ => rfl⟩
  | succ len ih =>
    rw [dmaBlock_succ, dmaUnit_otc hc, Result.next_andThen]
    have hs' : (s.setRamWord (addr &&& ramWordMask) (otcValue (len + 1) addr)).ram.wf := by
      rw [State.setRamWord_ram]
      exact Memory.wf_writeLE hs _ _ _
    obtain ⟨t, ht, hcleared⟩ := ih (Nat.le_of_succ_le hlen) (dmaNext c addr) hs'
    exact ⟨t, ht, hcleared.cons hlen hs⟩

/-- Settles O24: each unit writes its word, and no later unit writes over it. -/
theorem orderingTableClear : Obligations.OrderingTableClear := by
  intro s c addr len hc hlen hs
  obtain ⟨t, ht, honly, hunit, hrest⟩ := dmaBlock_otc hc hlen addr hs
  refine ⟨t, ht, honly, fun k hk => (hunit k hk).trans ?_, hrest⟩
  have hlast : len - k = 1 ↔ k + 1 = len := by omega
  simp only [otcValue, hlast]
  rfl

/-! ## The dispatch on the sync mode (R309 to R314) -/

theorem bcrSize_eq (b : Word) : bcrSize b = b.toNat % 0x10000 := by
  rw [bcrSize, BitVec.extractLsb'_toNat, Nat.shiftRight_zero]

theorem bcrCount_eq (b : Word) : bcrCount b = b.toNat / 0x10000 := by
  rw [bcrCount, BitVec.extractLsb'_toNat, Nat.shiftRight_eq_div_pow]
  omega

theorem immediateLength_eq (b : Word) :
    immediateLength b = if b.toNat % 0x10000 = 0 then 0x10000 else b.toNat % 0x10000 := by
  rw [immediateLength, bcrSize_eq]

theorem immediateLength_ne_zero (b : Word) : immediateLength b ≠ 0 := by
  unfold immediateLength; split <;> omega

theorem requestLength_eq (b : Word) : requestLength b = b.toNat % 0x10000 * (b.toNat / 0x10000) := by
  rw [requestLength, bcrSize_eq, bcrCount_eq]

/-- The product is taken literally: a zero field is a zero length (R312). -/
theorem requestLength_eq_zero_iff (b : Word) :
    requestLength b = 0 ↔ b.extractLsb' 0 16 = 0 ∨ b.extractLsb' 16 16 = 0 := by
  rw [requestLength, Nat.mul_eq_zero, bcrSize, bcrCount, BitVec.toNat_eq, BitVec.toNat_eq]
  rfl

section

variable {n : ChannelId} {s : State}

theorem dmaRun_immediate (h : chcrSync (s.channel n).chcr = 0) : dmaRun n s =
    dmaBlock n (s.channel n).chcr (immediateLength (s.channel n).bcr) ((s.channel n).madr.setWidth 32) s := by
  simp only [dmaRun, h]
  rfl

theorem dmaRun_request (h : chcrSync (s.channel n).chcr = 1) : dmaRun n s =
    dmaBlock n (s.channel n).chcr (requestLength (s.channel n).bcr) ((s.channel n).madr.setWidth 32) s := by
  simp only [dmaRun, h]
  rfl

theorem dmaRun_list (h : chcrSync (s.channel n).chcr = 2) (hn : n = 2) (hdir : (s.channel n).chcr.getLsbD 0 = true) :
    dmaRun n s = dmaList n s := by
  subst hn
  simp only [dmaRun, h]
  exact if_neg (by simp [gpuChannel, chcrFromRam, hdir])

theorem dmaRun_badList (h : chcrSync (s.channel n).chcr = 2) (hn : n ≠ 2 ∨ (s.channel n).chcr.getLsbD 0 = false) :
    dmaRun n s = stopped s (.dmaBadLinkedList n (s.channel n).chcr) := by
  simp only [dmaRun, h]
  exact if_pos hn

theorem dmaRun_reserved (h : chcrSync (s.channel n).chcr = 3) :
    dmaRun n s = stopped s (.dmaReservedSync n (s.channel n).chcr) := by
  simp only [dmaRun, h]
  rfl

end

/-- The channel that a control write leaves for the transfer: its other registers are as they were. -/
theorem State.channel_setChcr_self (s : State) (n : ChannelId) (v : Word) :
    (s.setChcr n v).channel n = { s.channel n with chcr := v } := by
  rw [State.channel_setChcr, if_pos rfl]

/-- Settles O23: the run of each mode; in an active channel a run that stops is a write that stops. -/
theorem transferDispatch : Obligations.TransferDispatch := by
  refine ⟨fun s n => ⟨fun h => ?_, fun h => ?_, ?_⟩, fun s n v hen => ?_⟩
  · rw [← immediateLength_eq]; exact dmaRun_immediate h
  · rw [← requestLength_eq]; exact dmaRun_request h
  · rintro h rfl hdir; exact dmaRun_list h rfl hdir
  · have hchcr : ((s.setChcr n v).channel n).chcr = v := by rw [State.channel_setChcr_self]
    have hbcr : ((s.setChcr n v).channel n).bcr = (s.channel n).bcr := by rw [State.channel_setChcr_self]
    have hsync {m : BitVec 2} (h : chcrSync v = m) : chcrSync ((s.setChcr n v).channel n).chcr = m := by rwa [hchcr]
    have hact : v.extractLsb' 9 2 ≠ 0 ∨ v.getLsbD 28 = true → chcrWrite n v s = dmaTransfer n (s.setChcr n v) :=
      fun h => chcrWrite_of_active ((chcrActive_iff v).2 ⟨hen, h⟩) n s
    have hmode {m : BitVec 2} (h : v.extractLsb' 9 2 = m) (hm : m ≠ 0) :
        chcrWrite n v s = dmaTransfer n (s.setChcr n v) := hact (.inl (h ▸ hm))
    refine ⟨fun h => ?_, fun h hbad => ?_, fun h htrig hserved => ?_, fun h hsize hcount hserved => ?_,
      fun h hzero => ?_⟩
    · rw [hmode h (by decide), dmaTransfer_of_fault (dmaRun_reserved (hsync h)), hchcr]; rfl
    · rw [hmode h (by decide), dmaTransfer_of_fault (dmaRun_badList (hsync h) (hchcr.symm ▸ hbad)), hchcr]; rfl
    · rw [hact (.inr htrig)]
      refine dmaTransfer_of_fault ((dmaRun_immediate (hsync h)).trans ?_)
      rw [hchcr]
      exact dmaBlock_unserved hserved (immediateLength_ne_zero _) _ _
    · rw [hmode h (by decide)]
      refine dmaTransfer_of_fault ((dmaRun_request (hsync h)).trans ?_)
      rw [hchcr, hbcr]
      exact dmaBlock_unserved hserved (fun h0 => ((requestLength_eq_zero_iff _).1 h0).elim hsize hcount) _ _
    · rw [hmode h (by decide)]
      refine dmaTransfer_of_next ((dmaRun_request (hsync h)).trans ?_)
      rw [hbcr, (requestLength_eq_zero_iff _).2 hzero]
      rfl

/-! ## What a transfer leaves alone (R325) -/

/-- A block writes main memory on channel 6 only, and the GPU on channel 2 only. -/
theorem dmaBlock_frame {n : ChannelId} {c : Word} {len : Nat} {addr : Word} {s t : State}
    (h : dmaBlock n c len addr s = .next t) : (n ≠ 6 → t.ram = s.ram) ∧ (n ≠ 2 → t.gpu = s.gpu) := by
  induction len generalizing addr s with
  | zero => cases h; exact ⟨fun _ => rfl, fun _ => rfl⟩
  | succ len ih =>
    rw [dmaBlock_succ, Result.andThen_eq_next] at h
    obtain ⟨s', hunit, h⟩ := h
    obtain ⟨hram, hgpu⟩ := ih h
    rcases dmaUnit_eq_next.1 hunit with ⟨-, hn, rfl⟩ | ⟨-, hn, hgp0⟩
    · exact ⟨fun hne => absurd hn hne, hgpu⟩
    · obtain ⟨g, -, rfl⟩ := State.gp0_eq_next.1 hgp0
      exact ⟨hram, fun hne => absurd hn hne⟩

theorem dmaList_ram {n : ChannelId} {s t : State} (h : dmaList n s = .next t) : t.ram = s.ram :=
  dmaListFrom_keeps (P := fun x => x.ram = s.ram) (fun x w y hx hy => by
    obtain ⟨g, -, rfl⟩ := State.gp0_eq_next.1 hy; exact hx) rfl h

theorem dmaRun_frame {n : ChannelId} {s t : State} (h : dmaRun n s = .next t) :
    (n ≠ 6 → t.ram = s.ram) ∧ (n ≠ 2 → t.gpu = s.gpu) := by
  unfold dmaRun at h
  simp only at h
  split at h
  · exact dmaBlock_frame h
  · exact dmaBlock_frame h
  · split at h
    · cases h
    · next hn => exact ⟨fun _ => dmaList_ram h, fun hne => absurd (.inl hne) hn⟩
  · cases h

theorem dmaRun_only {n : ChannelId} {s t : State} (h : dmaRun n s = .next t) :
    { t with ram := s.ram, gpu := s.gpu } = s :=
  dmaRun_keeps (P := fun x => { x with ram := s.ram, gpu := s.gpu } = s) (fun _ _ _ hx => hx)
    (fun x w y hx hy => by obtain ⟨g, -, rfl⟩ := State.gp0_eq_next.1 hy; exact hx) rfl h

/-- A control write that goes on is its store, or its store, a run and a completion. -/
theorem chcrWrite_eq_next {n : ChannelId} {v : Word} {s t : State} (h : chcrWrite n v s = .next t) :
    t = s.setChcr n v ∨ ∃ u, dmaRun n (s.setChcr n v) = .next u ∧ t = dmaComplete n u := by
  by_cases hv : chcrActive v = true
  · rw [chcrWrite_of_active hv, dmaTransfer, Result.andThen_eq_next] at h
    obtain ⟨u, hrun, hdone⟩ := h
    cases hdone
    exact .inr ⟨u, hrun, rfl⟩
  · rw [chcrWrite_of_not_active hv] at h
    cases h
    exact .inl rfl

/-- A control write changes its channel's control word alone: what is stored, or that with two bits cleared. -/
theorem chcrWrite_channel {n : ChannelId} {v : Word} {s t : State} (h : chcrWrite n v s = .next t) :
    ∃ w, (w = v ∨ w = v &&& 0xEEFFFFFF) ∧
      ∀ m, t.channel m = if m = n then { s.channel n with chcr := w } else s.channel m := by
  rcases chcrWrite_eq_next h with rfl | ⟨u, hrun, rfl⟩
  · exact ⟨v, .inl rfl, fun m => State.channel_setChcr s n m v⟩
  · refine ⟨chcrDone v, .inr rfl, fun m => ?_⟩
    have hchannel (k : ChannelId) : u.channel k = (s.setChcr n v).channel k :=
      State.channel_congr (congrArg Dma.channels (dmaRun_dma hrun)) k
    rw [dmaComplete_channel, hchannel, hchannel, State.channel_setChcr_self, State.channel_setChcr]
    split <;> rfl

/-- Besides its channel a control write changes main memory, the GPU, the flags, the pending bit and the log at most. -/
theorem chcrWrite_frame {n : ChannelId} {v : Word} {s t : State} (h : chcrWrite n v s = .next t) :
    (n ≠ 6 → t.ram = s.ram) ∧ (n ≠ 2 → t.gpu = s.gpu)
    ∧ { t with ram := s.ram, gpu := s.gpu, devLog := s.devLog, dma := { t.dma with
          channels := s.dma.channels, dicrFlags := s.dma.dicrFlags, irqPending := s.dma.irqPending } } = s := by
  rcases chcrWrite_eq_next h with rfl | ⟨u, hrun, rfl⟩
  · exact ⟨fun _ => rfl, fun _ => rfl, rfl⟩
  · obtain ⟨hram, hgpu⟩ := dmaRun_frame hrun
    have hdone := dmaComplete_only n u
    refine ⟨fun hn => (congrArg State.ram hdone :).trans (hram hn),
      fun hn => (congrArg State.gpu hdone :).trans (hgpu hn), ?_⟩
    have hdma : u.dma = (s.setChcr n v).dma := dmaRun_dma hrun
    have hregs : { (dmaComplete n u).dma with
        channels := s.dma.channels, dicrFlags := s.dma.dicrFlags, irqPending := s.dma.irqPending } = s.dma :=
      (congrArg (fun d : Dma => { d with
        channels := s.dma.channels, dicrFlags := s.dma.dicrFlags, irqPending := s.dma.irqPending })
        ((dmaComplete_dma n u).trans hdma) :)
    rw [hregs]
    calc
      _ = { u with ram := s.ram, gpu := s.gpu, devLog := s.devLog, dma := s.dma } :=
        congrArg (fun x : State => { x with ram := s.ram, gpu := s.gpu, devLog := s.devLog, dma := s.dma }) hdone
      _ = s := congrArg (fun x : State => { x with devLog := s.devLog, dma := s.dma })
        (dmaRun_only hrun)

/-- Settles O27: what a control write does to the channels, and to everything else. -/
theorem transferFrame : Obligations.TransferFrame := by
  intro s t n v h
  obtain ⟨w, hw, hchannel⟩ := chcrWrite_channel h
  refine ⟨fun m => ?_, fun m hm => ?_, ?_, chcrWrite_frame h⟩
  · rw [hchannel]
    split
    · next hm => rw [hm]; exact ⟨rfl, rfl⟩
    · exact ⟨rfl, rfl⟩
  · rw [hchannel, if_neg hm]
  · rwa [hchannel, if_pos rfl]

end Sys2Proof.Machine
end

section
/-!
SUPPORT. The linked-list transfer: the words of a node as a stream, the two-node list, O29, and the bound on a walk
that ends, O28.
-/

namespace Sys2Proof.Machine

/-! ## The words of a node (R320) -/

theorem Result.andThen_next (r : Result) : r.andThen .next = r := by cases r <;> rfl

/-- The `k` words that follow `addr` in a memory. -/
def listWords (m : Memory) : Nat → Word → List Word
  | 0, _ => []
  | k + 1, addr => m.readLE (listNext addr).toNat .word :: listWords m k (listNext addr)

theorem dmaForward_eq_gp0Stream (k : Nat) (addr : Word) (s : State) :
    dmaForward k addr s = s.gp0Stream (listWords s.ram k addr) := by
  induction k generalizing addr s with
  | zero => rfl
  | succ k ih =>
    rw [dmaForward_succ, listWords, State.gp0Stream_cons]
    refine Result.andThen_congr fun s' hs' => ?_
    obtain ⟨g, -, rfl⟩ := State.gp0_eq_next.1 hs'
    exact ih _ _

/-! ## The two-node list (R322) -/

/-- Two words on within a node: the mask between them does not matter. -/
theorem listNext_listNext (a : Word) : listNext (listNext a) = (a + 8) &&& ramWordMask := by
  have h4 : (4 : Word).toNat = 4 := rfl
  have h8 : (8 : Word).toNat = 8 := rfl
  apply BitVec.eq_of_toNat_eq
  simp only [listNext, toNat_and_ramWordMask, BitVec.toNat_add, h4, h8]
  omega

theorem listFuel_eq_add_two : ∃ k, listFuel = k + 2 := ⟨listFuel - 2, by norm_num [listFuel]⟩

/-- A header of the sentinel and no words: the walk ends there. -/
theorem dmaListFrom_last {n : ChannelId} {k : Nat} {addr : Word} {s : State} (h : s.ramWord addr = 0x00FFFFFF) :
    dmaListFrom n (k + 1) addr s = .next s := by
  rw [dmaListFrom_succ, h]
  rfl

/-- Settles O29: the first node is its two words, and the second ends the walk with none. -/
theorem twoNodeList : Obligations.TwoNodeList := by
  intro s b a hcount hnext hb hlast
  obtain ⟨k, hk⟩ := listFuel_eq_add_two
  have hends : headerEnds (s.ramWord a) = false := beq_eq_false_iff_ne.2 hnext
  have hforward : dmaForward (headerCount (s.ramWord a)) a s =
      s.gp0Stream [s.ramWord ((a + 4) &&& ramWordMask), s.ramWord ((a + 8) &&& ramWordMask)] := by
    rw [headerCount, hcount, ← listNext_listNext]
    exact dmaForward_eq_gp0Stream 2 a s
  have hwalk : dmaList 2 s = dmaListFrom 2 (k + 2) a s := by rw [← hk]; rfl
  rw [hwalk, dmaListFrom_succ, hforward]
  refine Eq.trans (Result.andThen_congr fun s' hs' => ?_) (Result.andThen_next _)
  have hram : s'.ram = s.ram := (congrArg State.ram (State.gp0Stream_only hs') :)
  rw [if_neg (by simp [hends])]
  refine dmaListFrom_last ?_
  rw [State.ramWord, hram, headerNext]
  exact hb ▸ hlast

/-! ## What decides how a stream goes on (R59, R351) -/

/-- The mode as a number of two bits. -/
def Gp0Mode.code : Gp0Mode → BitVec 2
  | .idle => 0
  | .bufferingParams => 1
  | .bufferingTextureData => 2

theorem Gp0Mode.code_injective : Function.Injective Gp0Mode.code := fun m m' => by
  cases m <;> cases m' <;> decide

/-- What of the GPU decides whether a GP0 word is accepted, and the same after the word: the mode, the two counters,
the opcode and the size word of an image load. -/
abbrev Progress := BitVec 2 × Word × Word × BitVec 8 × Word

/-- The progress of one GPU. -/
def Gpu.progress (g : Gpu) : Progress := (g.mode.code, g.fetched, g.required, g.opcode, g.buf[2])

theorem Gpu.progress_eq_iff {g h : Gpu} : g.progress = h.progress ↔
    g.mode = h.mode ∧ g.fetched = h.fetched ∧ g.required = h.required ∧ g.opcode = h.opcode ∧ g.buf[2] = h.buf[2] := by
  simp only [Gpu.progress, Prod.mk.injEq, Gp0Mode.code_injective.eq_iff]

/-- The progress after a word, if the word is accepted. -/
def gpuProgress : GpuResult → Option Progress
  | .next g => some g.progress
  | .fault _ | .refused _ => none

/-- In Idle a command that leaves the mode leaves the counters, the opcode and the size word too. -/
theorem Gpu.progress_gp0Idle {g h : Gpu} (hp : g.progress = h.progress) (c : Config) (w : Word) :
    gpuProgress (g.gp0Idle c w) = gpuProgress (h.gp0Idle c w) := by
  have hset {g' h' : Gpu} (hg : g'.progress = g.progress) (hh : h'.progress = h.progress) :
      gpuProgress (.next g') = gpuProgress (.next h') := congrArg some (hg.trans (hp.trans hh.symm))
  have hbegin (op : BitVec 8) : gpuProgress (.next (g.begin_ op w)) = gpuProgress (.next (h.begin_ op w)) := by
    obtain ⟨-, -, -, -, hsize⟩ := Gpu.progress_eq_iff.1 hp
    refine congrArg some (Gpu.progress_eq_iff.2 ⟨rfl, rfl, rfl, rfl, ?_⟩)
    simpa [Gpu.begin_] using hsize
  unfold Gpu.gp0Idle
  split
  case h_3 => unfold Gpu.interruptCommand; split <;> exact hset rfl rfl
  case h_10 | h_11 | h_12 | h_13 => exact hbegin _
  case h_14 => rfl
  all_goals exact hset rfl rfl

theorem Gpu.progress_toIdle {g h : Gpu} (hp : g.progress = h.progress) : g.toIdle.progress = h.toIdle.progress := by
  obtain ⟨-, -, -, hopcode, hsize⟩ := Gpu.progress_eq_iff.1 hp
  exact Gpu.progress_eq_iff.2 ⟨rfl, rfl, rfl, hopcode, hsize⟩

theorem Gpu.progress_beginImageLoad {g h : Gpu} (hp : g.progress = h.progress) :
    g.beginImageLoad.progress = h.beginImageLoad.progress := by
  obtain ⟨-, -, -, hopcode, hsize⟩ := Gpu.progress_eq_iff.1 hp
  rw [Gpu.progress_eq_iff]
  simp only [Gpu.beginImageLoad, Gpu.emit, hsize]
  split <;> exact ⟨rfl, rfl, rfl, hopcode, hsize⟩

theorem Gpu.progress_dispatch {g h : Gpu} (hp : g.progress = h.progress) :
    gpuProgress g.dispatch = gpuProgress h.dispatch := by
  obtain ⟨-, -, -, hopcode, -⟩ := Gpu.progress_eq_iff.1 hp
  unfold Gpu.dispatch
  rw [hopcode]
  split
  case h_4 => exact congrArg some (Gpu.progress_beginImageLoad hp)
  case h_5 => rfl
  all_goals exact congrArg some (Gpu.progress_toIdle hp)

/-- A parameter word is the size word exactly when it is the third of its command. -/
theorem Gpu.progress_gp0Param {g h : Gpu} (hp : g.progress = h.progress) (w : Word) :
    gpuProgress (g.gp0Param w) = gpuProgress (h.gp0Param w) := by
  obtain ⟨hmode, hfetched, hrequired, hopcode, hsize⟩ := Gpu.progress_eq_iff.1 hp
  unfold Gpu.gp0Param
  by_cases hroom : h.fetched.toNat < Config.gp0BufWords
  · have hp' : Gpu.progress { g with
          buf := g.buf.set g.fetched.toNat w (hfetched ▸ hroom), fetched := g.fetched + 1 } =
        Gpu.progress { h with buf := h.buf.set h.fetched.toNat w hroom, fetched := h.fetched + 1 } :=
      Gpu.progress_eq_iff.2 ⟨hmode, congrArg (· + 1) hfetched, hrequired, hopcode, by
        simp only [Vector.getElem_set, hfetched, hsize]⟩
    rw [dif_pos hroom, dif_pos (hfetched ▸ hroom)]
    simp only [← hfetched, ← hrequired] at hp' ⊢
    split
    · exact Gpu.progress_dispatch hp'
    · exact congrArg some hp'
  · rw [dif_neg hroom, dif_neg (hfetched ▸ hroom)]
    rfl

/-- The end of a transfer of image data is decided by the counters. -/
theorem Gpu.progress_finish {g h : Gpu} (hp : g.progress = h.progress) :
    (if g.fetched = g.required then g.toIdle else g).progress =
      (if h.fetched = h.required then h.toIdle else h).progress := by
  obtain ⟨-, hfetched, hrequired, -⟩ := Gpu.progress_eq_iff.1 hp
  by_cases hlast : h.fetched = h.required
  · rw [if_pos hlast, if_pos (hfetched.trans (hlast.trans hrequired.symm))]
    exact Gpu.progress_toIdle hp
  · rw [if_neg hlast, if_neg fun h => hlast (hfetched.symm.trans (h.trans hrequired))]
    exact hp

theorem Gpu.progress_gp0Texel {g h : Gpu} (hp : g.progress = h.progress) (w : Word) :
    (g.gp0Texel w).progress = (h.gp0Texel w).progress := by
  obtain ⟨hmode, hfetched, hrequired, hopcode, hsize⟩ := Gpu.progress_eq_iff.1 hp
  exact Gpu.progress_finish (g := { g.emit [.imageWord w] with fetched := g.fetched + 1 })
    (h := { h.emit [.imageWord w] with fetched := h.fetched + 1 })
    (Gpu.progress_eq_iff.2 ⟨hmode, congrArg (· + 1) hfetched, hrequired, hopcode, hsize⟩)

/-- Two GPUs of the same progress accept the same words and make the same progress. -/
theorem Gpu.progress_gp0 {g h : Gpu} (hp : g.progress = h.progress) (c : Config) (w : Word) :
    gpuProgress (g.gp0 c w) = gpuProgress (h.gp0 c w) := by
  obtain ⟨hmode, -⟩ := Gpu.progress_eq_iff.1 hp
  unfold Gpu.gp0
  rw [hmode]
  split
  · exact Gpu.progress_gp0Idle hp c w
  · exact Gpu.progress_gp0Param hp w
  · exact congrArg some (Gpu.progress_gp0Texel hp w)

/-- The GPU's progress after an operation of the machine, if it goes on. -/
def Result.progress : Result → Option Progress
  | .next t => some t.gpu.progress
  | .fault _ | .refused _ => none

theorem State.progress_gp0Stream (s : State) {g h : Gpu} (hp : g.progress = h.progress) (ws : List Word) :
    Result.progress (State.gp0Stream ws { s with gpu := g }) =
      Result.progress (State.gp0Stream ws { s with gpu := h }) := by
  induction ws generalizing g h with
  | nil => exact congrArg some hp
  | cons w ws ih =>
    have hgp0 := Gpu.progress_gp0 hp s.cfg w
    simp only [State.gp0Stream_cons, State.gp0, State.afterGpu]
    cases hg : g.gp0 s.cfg w <;> cases hh : h.gp0 s.cfg w <;> rw [hg, hh] at hgp0
    case next.next g' h' => exact ih (Option.some.inj hgp0)
    case next.fault | next.refused | fault.next | refused.next => cases hgp0
    all_goals rfl

/-! ## The walk as turns (R320) -/

/-- A point of a walk: the node's offset in main memory, which has 21 bits, and the GPU there. -/
abbrev WalkPoint := BitVec 21 × Gpu

/-- The machine at a point of a walk. -/
def State.atPoint (s : State) (p : WalkPoint) : State := { s with gpu := p.2 }

/-- The header of a point's node. -/
def State.headerAt (s : State) (p : WalkPoint) : Word := s.ramWord (p.1.setWidth 32)

/-- The walk of at most `fuel` nodes from a point. -/
def walkFrom (n : ChannelId) (s : State) (fuel : Nat) (p : WalkPoint) : Result :=
  dmaListFrom n fuel (p.1.setWidth 32) (s.atPoint p)

/-- The point after a point's node, if the walk goes on. -/
def walkTurn (s : State) (p : WalkPoint) : Option WalkPoint :=
  match dmaForward (headerCount (s.headerAt p)) (p.1.setWidth 32) (s.atPoint p) with
  | .next t => if headerEnds (s.headerAt p) then none else some ((headerNext (s.headerAt p)).setWidth 21, t.gpu)
  | .fault _ | .refused _ => none

/-- The offset of a word of main memory fits in 21 bits. -/
theorem setWidth_setWidth_and_ramWordMask (a : Word) :
    ((a &&& ramWordMask).setWidth 21).setWidth 32 = a &&& ramWordMask := by
  apply BitVec.eq_of_toNat_eq
  rw [BitVec.toNat_setWidth, BitVec.toNat_setWidth, toNat_and_ramWordMask]
  omega

section

variable {n : ChannelId} {s : State} {p q : WalkPoint}

/-- One node, the header's word count and the words being those of `s`. -/
theorem walkFrom_succ (n : ChannelId) (s : State) (fuel : Nat) (p : WalkPoint) : walkFrom n s (fuel + 1) p =
    (dmaForward (headerCount (s.headerAt p)) (p.1.setWidth 32) (s.atPoint p)).andThen fun t =>
      if headerEnds (s.headerAt p) then .next t else dmaListFrom n fuel (headerNext (s.headerAt p)) t :=
  dmaListFrom_succ ..

theorem walkFrom_succ_of_turn (h : walkTurn s p = some q) (fuel : Nat) :
    walkFrom n s (fuel + 1) p = walkFrom n s fuel q := by
  rw [walkFrom_succ]
  unfold walkTurn at h
  split at h
  · next t hforward =>
    split at h
    · cases h
    · next hends =>
      cases h
      have hgpu : t = { s with gpu := t.gpu } := by
        rw [dmaForward_eq_gp0Stream] at hforward
        exact (congrArg (fun x : State => { x with gpu := t.gpu }) (State.gp0Stream_only hforward) :)
      rw [hforward, Result.next_andThen, if_neg hends, walkFrom, headerNext, setWidth_setWidth_and_ramWordMask,
        State.atPoint, ← hgpu]
  · cases h
  · cases h

theorem walkFrom_succ_of_end (h : walkTurn s p = none) (k j : Nat) :
    walkFrom n s (k + 1) p = walkFrom n s (j + 1) p := by
  rw [walkFrom_succ, walkFrom_succ]
  refine Result.andThen_congr fun t ht => ?_
  have hends : headerEnds (s.headerAt p) = true := by
    by_contra hends
    simp [walkTurn, ht, hends] at h
  rw [if_pos hends, if_pos hends]

end

/-- One more turn, if there was one before. -/
def walkTurns (s : State) (o : Option WalkPoint) : Option WalkPoint := o.bind (walkTurn s)

theorem walkTurns_iterate_none (s : State) (k : Nat) : (walkTurns s)^[k] none = none := Function.iterate_fixed rfl k

theorem walkTurns_iterate_succ (s : State) (k : Nat) (p : WalkPoint) :
    (walkTurns s)^[k + 1] (some p) = (walkTurns s)^[k] (walkTurn s p) := Function.iterate_succ_apply ..

/-- A walk that has ended stays ended. -/
theorem walkTurns_iterate_mono {s : State} {o : Option WalkPoint} {k j : Nat} (hkj : k ≤ j)
    (h : (walkTurns s)^[k] o = none) : (walkTurns s)^[j] o = none := by
  obtain ⟨i, rfl⟩ := Nat.exists_eq_add_of_le' hkj
  rw [Function.iterate_add_apply, h, walkTurns_iterate_none]

/-- A walk that still goes on after all the nodes it was given is the fault of an endless list. -/
theorem walkFrom_of_turns {n : ChannelId} {s : State} {k : Nat} {p : WalkPoint}
    (h : (walkTurns s)^[k] (some p) ≠ none) :
    walkFrom n s k p = .fault (.endlessLinkedList (s.channel n).madr (s.channel n).chcr) := by
  induction k generalizing p with
  | zero => rfl
  | succ k ih =>
    rw [walkTurns_iterate_succ] at h
    cases hturn : walkTurn s p with
    | none => exact absurd (hturn ▸ walkTurns_iterate_none s k) h
    | some q => rw [walkFrom_succ_of_turn hturn, ih (hturn ▸ h)]

/-- Two walks that both end, end the same. -/
theorem walkFrom_eq_of_ends {n : ChannelId} {s : State} {k j : Nat} {p : WalkPoint}
    (hk : (walkTurns s)^[k] (some p) = none) (hj : (walkTurns s)^[j] (some p) = none) :
    walkFrom n s k p = walkFrom n s j p := by
  induction k generalizing j p with
  | zero => cases hk
  | succ k ih =>
    cases j with
    | zero => cases hj
    | succ j =>
      rw [walkTurns_iterate_succ] at hk hj
      cases hturn : walkTurn s p with
      | none => exact walkFrom_succ_of_end hturn k j
      | some q =>
        rw [walkFrom_succ_of_turn hturn, walkFrom_succ_of_turn hturn]
        exact ih (hturn ▸ hk) (hturn ▸ hj)

/-! ## A walk that ends, ends within the fuel (R321) -/

/-- When the value of a point's successor is decided by the point's value, in `Y`, the values along an orbit are those
of its first `card Y` points: among more than that two have one value, and from them on the orbit repeats. -/
theorem exists_iterate_eq_of_lt_card {X Y : Type} [Fintype Y] {F : X → X} {value : X → Y}
    (hF : ∀ x y, value x = value y → value (F x) = value (F y)) (x : X) (k : Nat) :
    ∃ m < Fintype.card Y, value (F^[m] x) = value (F^[k] x) := by
  have hiter (i : Nat) : ∀ x y, value x = value y → value (F^[i] x) = value (F^[i] y) := by
    induction i with
    | zero => exact fun _ _ h => h
    | succ i ih => exact fun x y h => ih _ _ (hF x y h)
  induction k using Nat.strong_induction_on with
  | _ k ih =>
    rcases Nat.lt_or_ge k (Fintype.card Y) with hk | hk
    · exact ⟨k, hk, rfl⟩
    · obtain ⟨i, j, hne, heq⟩ := Fintype.exists_ne_map_eq_of_card_lt
        (fun i : Fin (Fintype.card Y + 1) => value (F^[i] x)) (by simp)
      wlog hij : i < j generalizing i j
      · exact this j i hne.symm heq.symm (lt_of_le_of_ne (not_lt.1 hij) hne.symm)
      obtain ⟨m, hm, hval⟩ := ih (k - j + i) (by omega)
      refine ⟨m, hm, hval.trans ?_⟩
      have hshift := hiter (k - j) _ _ heq
      rwa [← Function.iterate_add_apply, ← Function.iterate_add_apply, Nat.sub_add_cancel (by omega)] at hshift

/-- What decides how a walk goes on from a point. -/
def WalkPoint.value (p : WalkPoint) : BitVec 21 × Progress := (p.1, p.2.progress)

theorem card_bitVec (k : Nat) : Fintype.card (BitVec k) = 2 ^ k := FinEnum.card_eq_fintypeCard.symm

theorem card_walkPoint_value_le : Fintype.card (Option (BitVec 21 × Progress)) ≤ listFuel := by
  simp only [Fintype.card_option, Fintype.card_prod, card_bitVec, listFuel]
  norm_num

/-- The value after a turn: the header's next offset, and the progress that the node's words make. -/
theorem walkTurn_map_value (s : State) (p : WalkPoint) : (walkTurn s p).map WalkPoint.value =
    if headerEnds (s.headerAt p) then none else
      (Result.progress (dmaForward (headerCount (s.headerAt p)) (p.1.setWidth 32) (s.atPoint p))).map
        (Prod.mk ((headerNext (s.headerAt p)).setWidth 21)) := by
  unfold walkTurn
  cases dmaForward (headerCount (s.headerAt p)) (p.1.setWidth 32) (s.atPoint p) with
  | next t => dsimp only; split <;> rfl
  | fault | refused => exact (ite_self none).symm

/-- Two points of the same value have successors of the same value, or both none. -/
theorem walkTurn_value (s : State) {p q : WalkPoint} (h : p.value = q.value) :
    (walkTurn s p).map WalkPoint.value = (walkTurn s q).map WalkPoint.value := by
  obtain ⟨hoffset, hprogress⟩ := Prod.mk.inj h
  have hheader : s.headerAt p = s.headerAt q := by rw [State.headerAt, hoffset]; rfl
  have hforward (k : Nat) (addr : Word) :
      Result.progress (dmaForward k addr (s.atPoint p)) = Result.progress (dmaForward k addr (s.atPoint q)) := by
    rw [dmaForward_eq_gp0Stream, dmaForward_eq_gp0Stream]
    exact State.progress_gp0Stream s hprogress _
  rw [walkTurn_map_value, walkTurn_map_value, hheader, hoffset, hforward]

theorem walkTurns_value (s : State) (o o' : Option WalkPoint) (h : o.map WalkPoint.value = o'.map WalkPoint.value) :
    (walkTurns s o).map WalkPoint.value = (walkTurns s o').map WalkPoint.value := by
  cases o <;> cases o'
  case none.none => rfl
  case some.some p q => exact walkTurn_value s (Option.some.inj h)
  case none.some | some.none => cases h

theorem walkTurns_iterate_listFuel {s : State} {p : WalkPoint} {k : Nat} (h : (walkTurns s)^[k] (some p) = none) :
    (walkTurns s)^[listFuel] (some p) = none := by
  obtain ⟨m, hm, hvalue⟩ := exists_iterate_eq_of_lt_card (walkTurns_value s) (some p) k
  rw [h] at hvalue
  exact walkTurns_iterate_mono (hm.le.trans card_walkPoint_value_le) (Option.map_eq_none_iff.1 hvalue)

/-- Settles O28: a walk that ends has ended within `listFuel` nodes, and two walks that end, end the same. -/
theorem linkedListWalkIsComplete : Obligations.LinkedListWalkIsComplete := by
  intro s fuel walk hwalk
  have hfrom (k : Nat) : dmaListFrom 2 k ((s.channel 2).madr.setWidth 32 &&& ramWordMask) s =
      walkFrom 2 s k (((s.channel 2).madr.setWidth 32 &&& ramWordMask).setWidth 21, s.gpu) := by
    rw [walkFrom, setWidth_setWidth_and_ramWordMask]
    rfl
  have hwalk' : walk = _ := hfrom fuel
  rw [hwalk'] at hwalk ⊢
  have hend := not_not.1 (mt walkFrom_of_turns (hwalk _ _))
  exact (hfrom listFuel).trans (walkFrom_eq_of_ends (walkTurns_iterate_listFuel hend) hend)

end Sys2Proof.Machine
end

section
/-!
SUPPORT. The one-word commands of the GPU's ports (R358 to R366, R390 to R399): what each does, said in its operands;
O51 and O52; the words without a command, O57; a port's words and the decoded command, O56.
-/

namespace Sys2Proof

/-- The words of an opcode with a GP0 row and what follows them in the row's encoding are the row's command. -/
theorem decode_gp0_of_op {j : Instr} (hj : j.space = .gp0) {op : BitVec 8} (hop : gp0Op j.tableMatch = op) {w : Word}
    (hw : w.extractLsb' 24 8 = op) (rest : List Word) :
    decode .gp0 (w :: ((encode j).tail ++ rest)) = .ok (j.withOperandsOf w, rest) :=
  decodeGp0_of_row hj (hw.trans hop.symm) rest

/-- A signed field of 11 bits is in the range of a drawing offset (R365). -/
theorem drawOffsetInRange_toInt (x : BitVec 11) : drawOffsetInRange x.toInt = true :=
  decide_eq_true ⟨BitVec.le_toInt x, by have := BitVec.toInt_lt (x := x); omega⟩

/-- The GP0 decoder answers well-formed commands. -/
theorem wellFormed_of_decodeGp0 {ws rest : List Word} {i : Instr} (h : decodeGp0 ws = .ok (i, rest)) :
    i.wellFormed = true := by
  unfold decodeGp0 at h
  split at h
  · cases h
  · split at h
    case h_12 => cases h; simp only [Instr.wellFormed, drawOffsetInRange_toInt, Bool.and_self]
    case h_4 | h_5 | h_6 | h_7 =>
      split at h <;> cases h
      rfl
    all_goals cases h
    all_goals rfl

/-- A command of several words is encoded as the words that deliver it; of a command of one word the encoding leaves
out the ignored bits. -/
theorem encode_of_decodeGp0 {w : Word} {ws : List Word} {i : Instr} (h : decodeGp0 (w :: ws) = .ok (i, [])) :
    encode i = w :: ws ∨ ws = [] ∧ ∃ w', encode i = [w'] := by
  have hword {op : Nat} (hop : (gp0Op w).toNat = op) : gpuWord (BitVec.ofNat 8 op) (low24 w) = w := by
    rw [← hop, BitVec.ofNat_toNat, BitVec.setWidth_eq, gpuWord_fields]
  unfold decodeGp0 at h
  dsimp only at h
  split at h
  case h_4 hop | h_5 hop | h_6 hop | h_7 hop =>
    split at h <;> cases h
    exact .inl (congrArg (· :: _) (hword hop))
  all_goals cases h
  all_goals exact .inr ⟨rfl, _, rfl⟩

/-- A GP1 command is one word. -/
theorem encode_of_space_gp1 {i : Instr} (hi : i.space = .gp1) : ∃ w, encode i = [w] := by
  cases i <;> cases hi <;> exact ⟨_, rfl⟩

/-- A one-bit field as the encoder writes it. -/
theorem extractLsb'_one (w : Word) (k : Nat) : w.extractLsb' k 1 = bit (w.getLsbD k) := by
  ext j hj
  cases Nat.lt_one_iff.1 hj
  simp [bit]

end Sys2Proof

namespace Sys2Proof.Machine

/-! ## The port as the machine sees it -/

/-- A byte read does not reach the GPU: the register at its port is read by whole words only (R93). -/
theorem sameBytes_setGpu (s : State) (g : Gpu) : SameBytes s { s with gpu := g } := fun a => by
  have hdev (p : Word) : State.devRead { s with gpu := g } p .byte = s.devRead p .byte := by
    cases hp : devRegAt p with
    | none => rw [State.devRead_unmapped hp, State.devRead_unmapped hp]
    | some r => rw [State.devRead_narrow hp (by decide), State.devRead_narrow hp (by decide)]
  simp only [State.memRead, hdev]

/-- An operation that ends with the GPU's registers replaced. -/
theorem setsGpu_of_eq {r : Result} {s : State} {g : Gpu} {P : Gpu → Prop} (h : r = .next { s with gpu := g })
    (hP : P g) : SetsGpu r s P :=
  ⟨_, h, rfl, sameBytes_setGpu s g, hP⟩

theorem State.gp0_of_next {s : State} {w : Word} {g : Gpu} (h : s.gpu.gp0 s.cfg w = .next g) :
    s.gp0 w = .next { s with gpu := g } := State.gp0_eq_next.2 ⟨g, h, rfl⟩

theorem State.gp1_of_next {s : State} {w : Word} {g : Gpu} (h : s.gpu.gp1 s.cfg w = .next g) :
    s.gp1 w = .next { s with gpu := g } := State.gp1_eq_next.2 ⟨g, h, rfl⟩

theorem Gpu.gp0_of_idle {g : Gpu} (hm : g.mode = .idle) (c : Config) (w : Word) : g.gp0 c w = g.gp0Idle c w := by
  rw [Gpu.gp0, hm]

/-- A GP0 command's words are handed to port 0 (R350). -/
theorem exec_gp0 {i : Instr} (hi : i.space = .gp0) (s : State) : exec i s = s.gp0Stream (encode i) := by
  cases i <;> cases hi <;> rfl

/-- A GP1 command's word is handed to port 1 (R390). -/
theorem exec_gp1 {i : Instr} (hi : i.space = .gp1) (s : State) : exec i s = s.gp1Stream (encode i) := by
  cases i <;> cases hi <;> rfl

/-! ## One-word commands in their operands -/

/-- The GPU after a command of one word, GP0 (R358 to R366) or GP1 (R391 to R399). -/
def Gpu.afterCommand (c : Config) (g : Gpu) : Instr → Gpu
  | .gp0Interrupt => { g with status := putField g.status 24 (bit (decide (c.gp0IrqEffect = .set))) }
  | .gp0DrawMode v td fx fy =>
    { g with status := putField (putField g.status 0 v) 15 (bit td), rectFlipX := fx, rectFlipY := fy }
  | .gp0TextureWindow mx my ox oy => { g with twMaskX := mx, twMaskY := my, twOffX := ox, twOffY := oy }
  | .gp0DrawAreaTopLeft l t => { g with daLeft := l, daTop := t }
  | .gp0DrawAreaBottomRight r b => { g with daRight := r, daBottom := b }
  | .gp0DrawOffset x y => { g with offX := BitVec.ofInt 16 x, offY := BitVec.ofInt 16 y }
  | .gp0MaskBits set check => { g with status := putField (putField g.status 11 (bit set)) 12 (bit check) }
  | .gp1SoftReset => g.softReset c
  | .gp1InterruptAcknowledge => { g with status := putField g.status 24 (bit false) }
  | .gp1DisplayEnable off => { g with status := putField g.status 23 (bit off) }
  | .gp1DmaDirection d => { g with status := putField g.status 29 d }
  | .gp1DisplayOrigin x y => { g with dispX := x, dispY := y }
  | .gp1HorizontalRange a b => { g with hStart := a, hEnd := b }
  | .gp1VerticalRange a b => { g with vStart := a, vEnd := b }
  | .gp1DisplayMode h1 vres pal d24 il h2 rev =>
    { g with
      status := putField (putField (putField (putField (putField (putField (putField g.status 17 h1) 19 (bit vres))
        20 (bit pal)) 21 (bit d24)) 22 (bit il)) 16 (bit h2)) 14 (bit rev) }
  | _ => g

/-- GP0 0x1F (R360) in one line for both values of `GP0_1F_EFFECT`. -/
theorem Gpu.interruptCommand_eq (c : Config) (g : Gpu) :
    g.interruptCommand c = { g with status := putField g.status 24 (bit (decide (c.gp0IrqEffect = .set))) } := by
  unfold Gpu.interruptCommand
  cases c.gp0IrqEffect <;> rfl

/-- A word that decodes as a command of its own does in Idle what the command's operands say (R352). -/
theorem Gpu.gp0_of_decode {g : Gpu} {w : Word} {i : Instr} (hm : g.mode = .idle) (h : decodeGp0 [w] = .ok (i, []))
    (c : Config) : g.gp0 c w = .next (g.afterCommand c i) := by
  rw [Gpu.gp0_of_idle hm]
  unfold decodeGp0 at h
  dsimp only at h
  split at h <;> cases h
  all_goals
    rename_i hop
    simp only [Gpu.gp0Idle, hop, Gpu.interruptCommand_eq, Gpu.setDrawMode, Gpu.setMaskBits, extractLsb'_one]
    rfl

/-- A word that decodes as a GP1 command does what the command's operands say (R390). -/
theorem Gpu.gp1_of_decode {w : Word} {i : Instr} (h : decodeGp1 w = .ok i) (c : Config) (g : Gpu) :
    g.gp1 c w = .next (g.afterCommand c i) := by
  unfold decodeGp1 at h
  split at h <;> cases h
  all_goals
    rename_i hop
    simp only [Gpu.gp1, hop, Gpu.setDisplayMode, extractLsb'_one]
    rfl

/-- A GP0 command of one word in Idle. -/
theorem exec_gp0_word {i : Instr} {w : Word} (hi : i.space = .gp0) (hwf : i.wellFormed = true) (hw : encode i = [w])
    {s : State} (hm : s.gpu.mode = .idle) : exec i s = .next { s with gpu := s.gpu.afterCommand s.cfg i } := by
  have hdecode : decode i.space (encode i ++ []) = .ok (i, []) := decodeInvertsEncode i [] hwf
  rw [hi, hw] at hdecode
  rw [exec_gp0 hi, hw, State.gp0Stream_singleton]
  exact State.gp0_of_next (Gpu.gp0_of_decode hm hdecode s.cfg)

/-- A GP1 command, in every buffering state. -/
theorem exec_gp1_word {i : Instr} (hi : i.space = .gp1) (s : State) :
    exec i s = .next { s with gpu := s.gpu.afterCommand s.cfg i } := by
  have hwf : i.wellFormed = true := by cases i <;> cases hi <;> rfl
  obtain ⟨w, hw⟩ := encode_of_space_gp1 hi
  have hdecode : decode i.space (encode i ++ []) = .ok (i, []) := decodeInvertsEncode i [] hwf
  rw [hi, hw] at hdecode
  rw [exec_gp1 hi, hw, State.gp1Stream_singleton]
  exact State.gp1_of_next (Gpu.gp1_of_decode (decode_gp1_eq_ok.1 hdecode).1 s.cfg s.gpu)

/-! ## Bits of the status word -/

/-- A field written into a word holds its value, and every other bit stays. -/
theorem getLsbD_putField {n : Nat} (w : Word) (lo : Nat) (v : BitVec n) {k : Nat} (hk : k < 32) :
    (putField w lo v).getLsbD k = if lo ≤ k ∧ k < lo + n then v.getLsbD (k - lo) else w.getLsbD k := by
  simp only [putField, BitVec.getLsbD_or, BitVec.getLsbD_and, BitVec.getLsbD_not, BitVec.getLsbD_shiftLeft,
    BitVec.getLsbD_setWidth, BitVec.getLsbD_allOnes]
  by_cases hlo : lo ≤ k
  · by_cases hhi : k < lo + n
    · simp [hlo, hhi, hk, Nat.not_lt.2 hlo, show k - lo < 32 by omega, show k - lo < n by omega]
    · simp [hlo, hhi, hk, Nat.not_lt.2 hlo, show ¬k - lo < n by omega, BitVec.getLsbD_of_ge v (k - lo) (by omega)]
  · simp [hlo, hk, Nat.lt_of_not_le hlo]

/-- A flag written into a word. -/
theorem getLsbD_putField_bit (w : Word) (lo : Nat) (b : Bool) {k : Nat} (hk : k < 32) :
    (putField w lo (bit b)).getLsbD k = if k = lo then b else w.getLsbD k := by
  rw [getLsbD_putField w lo _ hk]
  by_cases h : k = lo
  · rw [if_pos (by omega), if_pos h, h, Nat.sub_self, getLsbD_bit]
  · rw [if_neg (by omega), if_neg h]

/-! ## The statements -/

/-- Settles O51: the three words, and what their commands do. -/
theorem gp0PlainCommands : Obligations.Gp0PlainCommands := by
  refine ⟨fun w ws h => decode_gp0_of_op (j := .gp0Nop) rfl (by decide) h ws,
    fun w ws h => decode_gp0_of_op (j := .gp0CacheFlushStub) rfl (by decide) h ws,
    fun w ws h => decode_gp0_of_op (j := .gp0Interrupt) rfl (by decide) h ws,
    fun s hm => ⟨exec_gp0_word rfl rfl rfl hm, exec_gp0_word rfl rfl rfl hm, ?_⟩⟩
  exact setsGpu_of_eq (exec_gp0_word rfl rfl rfl hm) ⟨rfl, fun k hk => getLsbD_putField_bit _ _ _ hk⟩

/-- Settles O52: the six words, and what their commands do; the drawing offset is read back from its 16 bits. -/
theorem gp0Setters : Obligations.Gp0Setters := by
  refine ⟨fun w ws h => decode_gp0_of_op (j := .gp0DrawMode 0 false false false) rfl (by decide) h ws,
    fun w ws h => decode_gp0_of_op (j := .gp0TextureWindow 0 0 0 0) rfl (by decide) h ws,
    fun w ws h => decode_gp0_of_op (j := .gp0DrawAreaTopLeft 0 0) rfl (by decide) h ws,
    fun w ws h => decode_gp0_of_op (j := .gp0DrawAreaBottomRight 0 0) rfl (by decide) h ws,
    fun w ws h => decode_gp0_of_op (j := .gp0DrawOffset 0 0) rfl (by decide) h ws,
    fun w ws h => decode_gp0_of_op (j := .gp0MaskBits false false) rfl (by decide) h ws,
    fun s hm => ⟨fun v td fx fy => ?drawMode, fun mx my ox oy => ?textureWindow, fun l t => ?topLeft,
      fun r b => ?bottomRight, fun x y hx hx' hy hy' => ?drawOffset, fun set check => ?maskBits⟩⟩
  case drawMode =>
    refine setsGpu_of_eq (exec_gp0_word rfl rfl rfl hm) ⟨rfl, fun k hk => ?_⟩
    change (putField (putField s.gpu.status 0 v) 15 (bit td)).getLsbD k = _
    rw [getLsbD_putField_bit _ _ _ hk, getLsbD_putField _ 0 v hk]
    by_cases hlow : k < 11
    · have hne : k ≠ 15 := by omega
      simp [hlow, hne]
    · simp [hlow]
  case textureWindow | topLeft | bottomRight => exact setsGpu_of_eq (exec_gp0_word rfl rfl rfl hm) rfl
  case drawOffset =>
    have hwf : (Instr.gp0DrawOffset x y).wellFormed = true :=
      Bool.and_eq_true_iff.2 ⟨decide_eq_true ⟨hx, hx'⟩, decide_eq_true ⟨hy, hy'⟩⟩
    exact setsGpu_of_eq (exec_gp0_word rfl hwf rfl hm)
      ⟨BitVec.toInt_ofInt_eq_self (by decide) (by omega) (by omega),
        BitVec.toInt_ofInt_eq_self (by decide) (by omega) (by omega), rfl⟩
  case maskBits =>
    refine setsGpu_of_eq (exec_gp0_word rfl rfl rfl hm) ⟨rfl, fun k hk => ?_⟩
    change (putField (putField s.gpu.status 11 (bit set)) 12 (bit check)).getLsbD k = _
    rw [getLsbD_putField_bit _ _ _ hk, getLsbD_putField_bit _ _ _ hk]
    by_cases hset : k = 11 <;> simp [hset]

/-- A word in Idle whose top byte is no command is an unknown command (R368). -/
theorem Gpu.gp0Idle_unknown {w : Word} (h : (gp0Op w).toNat ∉
    [0x00, 0x01, 0x1F, 0x28, 0x30, 0x38, 0xA0, 0xE1, 0xE2, 0xE3, 0xE4, 0xE5, 0xE6]) (c : Config) (g : Gpu) :
    g.gp0Idle c w = .fault (.unknownGp0 w) := by
  unfold Gpu.gp0Idle
  split
  case h_14 => rfl
  all_goals rename_i hop; rw [hop] at h; exact absurd (by decide) h

/-- A GP1 word of no command is an unknown command (R400). -/
theorem Gpu.gp1_unknown {w : Word} (h : (gp1Op w).toNat = 1 ∨ 9 ≤ (gp1Op w).toNat) (c : Config) (g : Gpu) :
    g.gp1 c w = .fault (.unknownGp1 w) := by
  unfold Gpu.gp1
  split
  case h_9 => rfl
  all_goals omega

/-- Settles O57: the port's answer to such a word stops the machine. -/
theorem unknownCommandsStop : Obligations.UnknownCommandsStop := fun s w =>
  ⟨fun hm h => by rw [State.gp0, Gpu.gp0_of_idle hm, Gpu.gp0Idle_unknown h]; rfl,
    fun h => by rw [State.gp1, Gpu.gp1_unknown h]; rfl⟩

/-- Settles O56: the words of a command of several words are its encoding, and a command of one word does what its
operands say. -/
theorem portWordsRunDecodedCommands : Obligations.PortWordsRunDecodedCommands := by
  refine ⟨fun s ws i hm h => ?_, fun s w i h => ?_⟩
  · cases ws with
    | nil => cases h
    | cons w ws =>
      have hgp0 : decodeGp0 (w :: ws) = .ok (i, []) := h
      obtain ⟨hi, -⟩ := meetsRow_of_decodeGp0 hgp0
      obtain hwords | ⟨rfl, w', hw⟩ := encode_of_decodeGp0 hgp0
      · rw [exec_gp0 hi, hwords]
      · rw [State.gp0Stream_singleton, exec_gp0_word hi (wellFormed_of_decodeGp0 hgp0) hw hm]
        exact State.gp0_of_next (Gpu.gp0_of_decode hm hgp0 s.cfg)
  · obtain ⟨hdecode, -⟩ := decode_gp1_eq_ok.1 h
    obtain ⟨hi, -⟩ := meetsRow_of_decodeGp1 hdecode
    rw [exec_gp1_word hi]
    exact State.gp1_of_next (Gpu.gp1_of_decode hdecode s.cfg s.gpu)

end Sys2Proof.Machine
end

section
/-!
SUPPORT. The buffering states of port 0 (R354 to R357): what a run of words stores, O55; the commands of several words
delivered whole, O53; the image load and its data words, O54.
-/

namespace Sys2Proof.Machine

/-! ## The count of words -/

/-- A count of words that stays below `required` has not wrapped. -/
theorem toNat_add_ofNat_of_le {fetched required : Word} {n : Nat} (h : fetched.toNat + n ≤ required.toNat) :
    (fetched + BitVec.ofNat 32 n).toNat = fetched.toNat + n := by
  have := required.isLt
  rw [BitVec.toNat_add, BitVec.toNat_ofNat]
  omega

theorem add_ofNat_eq_iff {fetched required : Word} {n : Nat} (h : fetched.toNat + n ≤ required.toNat) :
    fetched + BitVec.ofNat 32 n = required ↔ fetched.toNat + n = required.toNat := by
  rw [← BitVec.toNat_inj, toNat_add_ofNat_of_le h]

theorem add_ofNat_succ (fetched : Word) (n : Nat) :
    fetched + BitVec.ofNat 32 1 + BitVec.ofNat 32 n = fetched + BitVec.ofNat 32 (n + 1) := by
  rw [BitVec.add_assoc, ← BitVec.ofNat_add, Nat.add_comm]

/-! ## Parameter words (R355) -/

/-- The buffer with words stored in it from position `n` on. -/
def putWords (buf : Vector Word Config.gp0BufWords) (n : Nat) (ws : List Word) : Vector Word Config.gp0BufWords :=
  Vector.ofFn fun k => if n ≤ k ∧ k < n + ws.length then ws.getD (k - n) 0 else buf[k]

theorem getElem_putWords (buf : Vector Word Config.gp0BufWords) (n : Nat) (ws : List Word) {k : Nat} (hk : k < 12) :
    (putWords buf n ws)[k] = if n ≤ k ∧ k < n + ws.length then ws.getD (k - n) 0 else buf[k] :=
  Vector.getElem_ofFn hk

theorem putWords_nil (buf : Vector Word Config.gp0BufWords) (n : Nat) : putWords buf n [] = buf :=
  Vector.ext fun _ hk => (getElem_putWords buf n [] hk).trans (if_neg fun h => Nat.not_lt.2 h.1 h.2)

theorem putWords_singleton (buf : Vector Word Config.gp0BufWords) {n : Nat} (hn : n < Config.gp0BufWords) (w : Word) :
    putWords buf n [w] = buf.set n w hn :=
  Vector.ext fun k hk => by
    rw [getElem_putWords buf n [w] hk, Vector.getElem_set, List.length_singleton]
    by_cases heq : n = k
    · simp [heq]
    · rw [if_neg heq, if_neg (by omega)]

/-- Words stored one by one are stored in order. -/
theorem putWords_cons (buf : Vector Word Config.gp0BufWords) (n : Nat) (w : Word) (ws : List Word) :
    putWords (putWords buf n [w]) (n + 1) ws = putWords buf n (w :: ws) :=
  Vector.ext fun k hk => by
    simp only [getElem_putWords _ _ _ hk, List.length_cons, List.length_nil]
    rcases Nat.lt_trichotomy k n with hlt | rfl | hgt
    · rw [if_neg (by omega), if_neg (by omega), if_neg (by omega)]
    · simp
    · have hsub : k - n = k - (n + 1) + 1 := by omega
      rw [hsub, List.getD_cons_succ, if_neg (c := _ ∧ k < n + (0 + 1)) (by omega)]
      exact if_congr (by omega) rfl rfl

/-- The GPU after words were stored as parameters and counted. -/
def Gpu.storeParams (g : Gpu) (ws : List Word) : Gpu :=
  { g with fetched := g.fetched + BitVec.ofNat 32 ws.length, buf := putWords g.buf g.fetched.toNat ws }

theorem Gpu.storeParams_nil (g : Gpu) : g.storeParams [] = g := by
  rw [Gpu.storeParams, putWords_nil, List.length_nil, BitVec.add_zero]

theorem Gpu.storeParams_cons (g : Gpu) (w : Word) (ws : List Word) (h : g.fetched.toNat + 1 ≤ g.required.toNat) :
    (g.storeParams [w]).storeParams ws = g.storeParams (w :: ws) := by
  have hf : (g.fetched + BitVec.ofNat 32 [w].length).toNat = g.fetched.toNat + 1 := toNat_add_ofNat_of_le h
  simp only [Gpu.storeParams, hf, putWords_cons]
  rw [List.length_singleton, add_ofNat_succ, List.length_cons]

/-! ## A run of parameter words -/

/-- The GPU after words that do not go past the end of a command: stored, and dispatched with the last one (R356). -/
def Gpu.takeParams (g : Gpu) (ws : List Word) : GpuResult :=
  if (g.storeParams ws).fetched = g.required then (g.storeParams ws).dispatch else .next (g.storeParams ws)

theorem Gpu.takeParams_of_lt {g : Gpu} {ws : List Word} (h : g.fetched.toNat + ws.length < g.required.toNat) :
    g.takeParams ws = .next (g.storeParams ws) :=
  if_neg fun heq => h.ne ((add_ofNat_eq_iff h.le).1 heq)

theorem Gpu.takeParams_of_eq {g : Gpu} {ws : List Word} (h : g.fetched.toNat + ws.length = g.required.toNat) :
    g.takeParams ws = (g.storeParams ws).dispatch :=
  if_pos ((add_ofNat_eq_iff h.le).2 h)

theorem Gpu.gp0_of_params {g : Gpu} (hm : g.mode = .bufferingParams) (hroom : g.fetched.toNat < Config.gp0BufWords)
    (c : Config) (w : Word) : g.gp0 c w = g.takeParams [w] := by
  rw [Gpu.gp0, hm, Gpu.takeParams, Gpu.storeParams, putWords_singleton g.buf hroom w]
  exact dif_pos hroom

/-- A run of words within a command, handed over one by one. -/
theorem State.gp0Stream_of_params {s : State} {ws : List Word} {g : Gpu} (hm : s.gpu.mode = .bufferingParams)
    (hreq : s.gpu.required.toNat ≤ 12) (hne : ws ≠ [])
    (hle : s.gpu.fetched.toNat + ws.length ≤ s.gpu.required.toNat)
    (h : s.gpu.takeParams ws = .next g) : s.gp0Stream ws = .next { s with gpu := g } := by
  induction ws generalizing s with
  | nil => exact absurd rfl hne
  | cons w ws ih =>
    simp only [List.length_cons] at hle
    have hword := Gpu.gp0_of_params hm (show s.gpu.fetched.toNat < 12 by omega) s.cfg w
    rw [State.gp0Stream_cons]
    cases ws with
    | nil => rw [State.gp0_of_next (hword.trans h)]; rfl
    | cons w' ws =>
      simp only [List.length_cons] at hle
      have hlt : s.gpu.fetched.toNat + [w].length < s.gpu.required.toNat := by rw [List.length_singleton]; omega
      have hf : (s.gpu.storeParams [w]).fetched.toNat = s.gpu.fetched.toNat + 1 := toNat_add_ofNat_of_le hlt.le
      rw [State.gp0_of_next (hword.trans (Gpu.takeParams_of_lt hlt)), Result.next_andThen]
      rw [Gpu.takeParams, ← Gpu.storeParams_cons s.gpu w (w' :: ws) hlt.le] at h
      have hle' : (s.gpu.storeParams [w]).fetched.toNat + (w' :: ws).length ≤ s.gpu.required.toNat := by
        rw [hf, List.length_cons]; omega
      exact ih (s := { s with gpu := s.gpu.storeParams [w] }) hm hreq (List.cons_ne_nil _ _) hle' h

/-- Settles O55: the words are stored in order, and none of them is the last. -/
theorem parametersAreData : Obligations.ParametersAreData := by
  intro s ws hm hreq hlt
  have hstream : s.gp0Stream ws = .next { s with gpu := s.gpu.storeParams ws } := by
    by_cases hne : ws = []
    · rw [hne, Gpu.storeParams_nil]
      rfl
    · exact State.gp0Stream_of_params hm hreq hne hlt.le (Gpu.takeParams_of_lt hlt)
  exact setsGpu_of_eq hstream
    ⟨hm, toNat_add_ofNat_of_le hlt.le, rfl, rfl, rfl, fun _ hk => getElem_putWords _ _ ws hk, rfl⟩

/-! ## A command of several words delivered whole -/

/-- `GP0_LEN` (R367): a command that is buffered has more than one word, and the buffer has room for all. -/
theorem Gpu.gp0Len_bounds (op : BitVec 8) :
    (gp0Len op).toNat = 0 ∨ 1 < (gp0Len op).toNat ∧ (gp0Len op).toNat ≤ 12 := by
  unfold Gpu.gp0Len
  split <;> decide

/-- An opcode with a length begins its command (R354). -/
theorem Gpu.gp0Idle_of_len {w : Word} (h : (gp0Len (gp0Op w)).toNat ≠ 0) (c : Config) (g : Gpu) :
    g.gp0Idle c w = .next (g.begin_ (gp0Op w) w) := by
  unfold Gpu.gp0Len at h
  split at h
  case h_5 => exact absurd rfl h
  all_goals
    rename_i hop
    simp only [Gpu.gp0Idle, hop]
    exact congrArg (fun op => Host.Outcome.next (g.begin_ op w)) (BitVec.eq_of_toNat_eq hop.symm)

/-- The GPU in Idle after a whole command was stored, before it runs. -/
def Gpu.delivered (g : Gpu) (w : Word) (ws : List Word) : Gpu := (g.begin_ (gp0Op w) w).storeParams ws

/-- The buffer of a command delivered whole holds its words. -/
theorem Gpu.getElem_buf_delivered (g : Gpu) (w : Word) (ws : List Word) {k : Nat} (hk : k < 12)
    (hlen : k < ws.length + 1) : (g.delivered w ws).buf[k] = (w :: ws)[k] := by
  refine (getElem_putWords _ 1 ws hk).trans ?_
  cases k with
  | zero => simp [Gpu.begin_]
  | succ k => simp [show k + 1 < 1 + ws.length by omega, show k < ws.length by omega]

/-- Delivered whole in Idle, a command is buffered and then runs (R354 to R356). -/
theorem State.gp0Stream_of_command {s : State} {w : Word} {ws : List Word} {g : Gpu} (hm : s.gpu.mode = .idle)
    (hlen : (Gpu.gp0Len (gp0Op w)).toNat = ws.length + 1) (h : (s.gpu.delivered w ws).dispatch = .next g) :
    s.gp0Stream (w :: ws) = .next { s with gpu := g } := by
  obtain hzero | ⟨hone, hroom⟩ := Gpu.gp0Len_bounds (gp0Op w)
  · omega
  have hcount : (s.gpu.begin_ (gp0Op w) w).fetched.toNat + ws.length = (s.gpu.begin_ (gp0Op w) w).required.toNat :=
    (Nat.add_comm 1 _).trans hlen.symm
  have hbegin := (Gpu.gp0_of_idle hm s.cfg w).trans (Gpu.gp0Idle_of_len (by omega) s.cfg s.gpu)
  rw [State.gp0Stream_cons, State.gp0_of_next hbegin, Result.next_andThen]
  exact State.gp0Stream_of_params (s := { s with gpu := s.gpu.begin_ (gp0Op w) w }) rfl hroom
    (List.ne_nil_of_length_pos (by omega)) hcount.le ((Gpu.takeParams_of_eq hcount).trans h)

/-- A draw command delivered whole appends its events, once, and leaves the port idle. -/
theorem draws_of_command {s : State} {i : Instr} {w : Word} {ws : List Word} {es : List GpuEvent} {g : Gpu}
    (hi : i.space = .gp0) (hwords : encode i = w :: ws) (hm : s.gpu.mode = .idle)
    (hlen : (Gpu.gp0Len (gp0Op w)).toNat = ws.length + 1)
    (hdispatch : (s.gpu.delivered w ws).dispatch = .next g.toIdle) (hdraw : g = (s.gpu.delivered w ws).emit es) :
    Draws (exec i s) es s := by
  subst hdraw
  rw [exec_gp0 hi, hwords]
  refine ⟨_, State.gp0Stream_of_command hm hlen hdispatch, rfl, sameBytes_setGpu s _, ?_⟩
  dsimp only [Gpu.toIdle, Gpu.emit, Gpu.delivered, Gpu.storeParams, Gpu.begin_]
  exact ⟨rfl, rfl, rfl, rfl, rfl⟩

/-- The colour of a colour word, in the two spellings of the model and the statement. -/
theorem low24_eq_setWidth (w : Word) : low24 w = w.setWidth 24 := (BitVec.setWidth_eq_extractLsb' (by decide)).symm

theorem vertex_eq_vertexOf : Gpu.vertex = vertexOf := rfl

section

/-! The dispatch of each buffered opcode (R356). -/

variable {g : Gpu}

theorem Gpu.dispatch_monoQuad (h : g.opcode = 0x28) : g.dispatch = .next g.drawMonoQuad.toIdle := by
  rw [Gpu.dispatch, h]; rfl

theorem Gpu.dispatch_shadedTriangle (h : g.opcode = 0x30) : g.dispatch = .next g.drawShadedTriangle.toIdle := by
  rw [Gpu.dispatch, h]; rfl

theorem Gpu.dispatch_shadedQuad (h : g.opcode = 0x38) : g.dispatch = .next g.drawShadedQuad.toIdle := by
  rw [Gpu.dispatch, h]; rfl

theorem Gpu.dispatch_imageLoad (h : g.opcode = 0xA0) : g.dispatch = .next g.beginImageLoad := by
  rw [Gpu.dispatch, h]; rfl

end

/-- Settles O53: each command is buffered whole, and its events are those of its words. -/
theorem gp0DrawCommands : Obligations.Gp0DrawCommands := by
  refine ⟨fun w v0 v1 v2 v3 rest h =>
      decode_gp0_of_op (j := .gp0MonoQuad 0 v0 v1 v2 v3) rfl (show gp0Op 0x28000000 = 0x28 by decide) h rest,
    fun w v0 c1 v1 c2 v2 rest h =>
      decode_gp0_of_op (j := .gp0ShadedTriangle 0 v0 c1 v1 c2 v2) rfl (show gp0Op 0x30000000 = 0x30 by decide) h rest,
    fun w v0 c1 v1 c2 v2 c3 v3 rest h =>
      decode_gp0_of_op (j := .gp0ShadedQuad 0 v0 c1 v1 c2 v2 c3 v3) rfl (show gp0Op 0x38000000 = 0x38 by decide) h rest,
    fun s c0 v0 v1 v2 v3 c1 c2 c3 hm => ⟨?monoQuad, ?shadedTriangle, ?shadedQuad⟩⟩
  case monoQuad =>
    refine draws_of_command rfl rfl hm (by rw [gp0Op_gpuWord]; rfl)
      (Gpu.dispatch_monoQuad (gp0Op_gpuWord 0x28 c0)) ?_
    simp [Gpu.drawMonoQuad, Gpu.quad, vertex_eq_vertexOf, Gpu.getElem_buf_delivered]
  case shadedTriangle =>
    refine draws_of_command rfl rfl hm (by rw [gp0Op_gpuWord]; rfl)
      (Gpu.dispatch_shadedTriangle (gp0Op_gpuWord 0x30 c0)) ?_
    simp [Gpu.drawShadedTriangle, vertex_eq_vertexOf, Gpu.getElem_buf_delivered, low24_eq_setWidth c1,
      low24_eq_setWidth c2]
  case shadedQuad =>
    refine draws_of_command rfl rfl hm (by rw [gp0Op_gpuWord]; rfl)
      (Gpu.dispatch_shadedQuad (gp0Op_gpuWord 0x38 c0)) ?_
    simp [Gpu.drawShadedQuad, Gpu.quad, vertex_eq_vertexOf, Gpu.getElem_buf_delivered, low24_eq_setWidth c1,
      low24_eq_setWidth c2, low24_eq_setWidth c3]

/-! ## Data words of an image (R357) -/

/-- The GPU after words of an image were passed through and counted. -/
def Gpu.storeTexels (g : Gpu) (ws : List Word) : Gpu :=
  { g with fetched := g.fetched + BitVec.ofNat 32 ws.length, out := g.out ++ ws.map .imageWord }

theorem Gpu.storeTexels_cons (g : Gpu) (w : Word) (ws : List Word) :
    (g.storeTexels [w]).storeTexels ws = g.storeTexels (w :: ws) := by
  simp only [Gpu.storeTexels, List.map_cons, List.map_nil, List.append_assoc, List.singleton_append]
  rw [List.length_singleton, add_ofNat_succ, List.length_cons]

/-- The GPU after words that do not go past the end of an image: the last one leaves the port idle. -/
def Gpu.takeTexels (g : Gpu) (ws : List Word) : Gpu :=
  if (g.storeTexels ws).fetched = g.required then (g.storeTexels ws).toIdle else g.storeTexels ws

theorem Gpu.takeTexels_of_lt {g : Gpu} {ws : List Word} (h : g.fetched.toNat + ws.length < g.required.toNat) :
    g.takeTexels ws = g.storeTexels ws :=
  if_neg fun heq => h.ne ((add_ofNat_eq_iff h.le).1 heq)

theorem Gpu.takeTexels_of_eq {g : Gpu} {ws : List Word} (h : g.fetched.toNat + ws.length = g.required.toNat) :
    g.takeTexels ws = (g.storeTexels ws).toIdle :=
  if_pos ((add_ofNat_eq_iff h.le).2 h)

theorem Gpu.gp0_of_texels {g : Gpu} (hm : g.mode = .bufferingTextureData) (c : Config) (w : Word) :
    g.gp0 c w = .next (g.takeTexels [w]) := by
  rw [Gpu.gp0, hm]
  rfl

/-- A run of data words within an image, handed over one by one. -/
theorem State.gp0Stream_of_texels {s : State} {ws : List Word} (hm : s.gpu.mode = .bufferingTextureData)
    (hne : ws ≠ []) (hle : s.gpu.fetched.toNat + ws.length ≤ s.gpu.required.toNat) :
    s.gp0Stream ws = .next { s with gpu := s.gpu.takeTexels ws } := by
  induction ws generalizing s with
  | nil => exact absurd rfl hne
  | cons w ws ih =>
    rw [State.gp0Stream_cons, State.gp0_of_next (Gpu.gp0_of_texels hm s.cfg w), Result.next_andThen]
    cases ws with
    | nil => rfl
    | cons w' ws =>
      simp only [List.length_cons] at hle
      have hlt : s.gpu.fetched.toNat + [w].length < s.gpu.required.toNat := by rw [List.length_singleton]; omega
      have hf : (s.gpu.storeTexels [w]).fetched.toNat = s.gpu.fetched.toNat + 1 := toNat_add_ofNat_of_le hlt.le
      have hle' : (s.gpu.storeTexels [w]).fetched.toNat + (w' :: ws).length ≤ s.gpu.required.toNat := by
        rw [hf, List.length_cons]; omega
      rw [Gpu.takeTexels_of_lt hlt, Gpu.takeTexels, ← Gpu.storeTexels_cons s.gpu w (w' :: ws)]
      exact ih (s := { s with gpu := s.gpu.storeTexels [w] }) hm (List.cons_ne_nil _ _) hle'

/-! ## The image load (R374) -/

theorem toNat_imageWords (w h : Half) : (Gpu.imageWords w h).toNat = (w.toNat * h.toNat + 1) / 2 := by
  have hprod : w.toNat * h.toNat ≤ 0xFFFF * 0xFFFF := Nat.mul_le_mul (by omega) (by omega)
  rw [Gpu.imageWords, BitVec.toNat_ofNat]
  omega

theorem imageWords_eq_zero_iff (w h : Half) : Gpu.imageWords w h = 0 ↔ w.toNat * h.toNat = 0 := by
  rw [← BitVec.toNat_inj, toNat_imageWords]
  exact (by omega : (w.toNat * h.toNat + 1) / 2 = 0 ↔ w.toNat * h.toNat = 0)

/-- An image load announces itself and asks for its words; an empty one asks for none. -/
theorem Gpu.beginImageLoad_eq {g : Gpu} {dest size : Word} (hdest : g.buf[1] = dest) (hsize : g.buf[2] = size) :
    g.beginImageLoad =
      { g with
        out := g.out ++ [.imageLoad (dest.extractLsb' 0 16) (dest.extractLsb' 16 16) (size.extractLsb' 0 16)
          (size.extractLsb' 16 16)]
        fetched := 0
        required := imageWords (size.extractLsb' 0 16) (size.extractLsb' 16 16)
        mode := if imageWords (size.extractLsb' 0 16) (size.extractLsb' 16 16) = 0 then .idle
          else .bufferingTextureData } := by
  subst hdest hsize
  simp only [Gpu.beginImageLoad, Gpu.emit]
  split
  · next hzero => rw [hzero]
  · rfl

/-- Settles O54: the command is buffered whole and announces itself, and its data words are passed through. -/
theorem gp0ImageLoad : Obligations.Gp0ImageLoad := by
  refine ⟨fun w dest size rest h =>
      decode_gp0_of_op (j := .gp0ImageLoad 0 dest size) rfl (show gp0Op 0xA0000000 = 0xA0 by decide) h rest,
    fun s low dest size hm => ?_, fun s ws hm hpos hle => ?_⟩
  · intro w h
    have hw : (size.extractLsb' 0 16).toNat = w := by rw [BitVec.extractLsb'_toNat]; rfl
    have hh : (size.extractLsb' 16 16).toNat = h := by rw [BitVec.extractLsb'_toNat, Nat.shiftRight_eq_div_pow]; omega
    have hload := Gpu.beginImageLoad_eq (g := s.gpu.delivered (gpuWord 0xA0 low) [dest, size]) (dest := dest)
      (size := size) (by simp [Gpu.getElem_buf_delivered]) (by simp [Gpu.getElem_buf_delivered])
    have hdispatch := (Gpu.dispatch_imageLoad (gp0Op_gpuWord 0xA0 low)).trans (congrArg Host.Outcome.next hload)
    have hstream := State.gp0Stream_of_command hm (by rw [gp0Op_gpuWord]; rfl) hdispatch
    refine setsGpu_of_eq ((exec_gp0 rfl s).trans hstream) ⟨rfl, rfl, ?_, ?_, ?_⟩
    · exact (toNat_imageWords _ _).trans (by rw [hw, hh])
    · exact if_congr ((imageWords_eq_zero_iff _ _).trans (by rw [hw, hh])) rfl rfl
    · dsimp only [Gpu.delivered, Gpu.storeParams, Gpu.begin_]
      rfl
  · refine setsGpu_of_eq (State.gp0Stream_of_texels hm (List.ne_nil_of_length_pos hpos) hle) ?_
    rcases hle.lt_or_eq with hlt | heq
    · rw [Gpu.takeTexels_of_lt hlt]
      exact ⟨rfl, rfl, fun h => absurd h hlt.ne, fun _ => ⟨hm, toNat_add_ofNat_of_le hle, rfl⟩⟩
    · rw [Gpu.takeTexels_of_eq heq]
      exact ⟨rfl, rfl, fun _ => ⟨rfl, rfl, rfl⟩, fun h => absurd heq h.ne⟩

end Sys2Proof.Machine
end

section
/-!
SUPPORT. The commands of GPU port 1 (R390 to R399) in every buffering state: their words, and what each does; O58 and
O59.
-/

namespace Sys2Proof

/-- The words of an opcode with a GP1 row are the row's command, whatever bits 31:30 hold (R390). -/
theorem decode_gp1_of_op {j : Instr} (hj : j.space = .gp1) {op : BitVec 6} (hop : gp1Op j.tableMatch = op) {w : Word}
    (hw : w.extractLsb' 24 6 = op) (ws : List Word) : decode .gp1 (w :: ws) = .ok (j.withOperandsOf w, ws) :=
  decode_gp1_eq_ok.2 ⟨decodeGp1_of_row hj (hw.trans hop.symm), rfl⟩

end Sys2Proof

namespace Sys2Proof.Machine

/-- A GP1 command sets the GPU as its operands say and changes nothing else of the machine. -/
theorem setsGpu_of_gp1 {i : Instr} (hi : i.space = .gp1) {s : State} {P : Gpu → Prop}
    (hP : P (s.gpu.afterCommand s.cfg i)) : SetsGpu (exec i s) s P :=
  setsGpu_of_eq (exec_gp1_word hi s) hP

/-- A field of two bits written into a word. -/
theorem getLsbD_putField_two (w : Word) (lo : Nat) (v : BitVec 2) {k : Nat} (hk : k < 32) :
    (putField w lo v).getLsbD k =
      if k = lo then v.getLsbD 0 else if k = lo + 1 then v.getLsbD 1 else w.getLsbD k := by
  rw [getLsbD_putField w lo v hk]
  by_cases hlow : k = lo
  · simp [hlow]
  · by_cases hhigh : k = lo + 1
    · simp [hhigh]
    · rw [if_neg (by omega), if_neg hlow, if_neg hhigh]

/-- The status word after a display mode (R399): each of its seven fields, which do not overlap, and the bits that
stay. -/
theorem getLsbD_displayMode_status (c : Config) (g : Gpu) (h1 : BitVec 2) (vres pal d24 il h2 rev : Bool) {k : Nat}
    (hk : k < 32) :
    (g.afterCommand c (.gp1DisplayMode h1 vres pal d24 il h2 rev)).status.getLsbD k =
      if k = 17 then h1.getLsbD 0 else if k = 18 then h1.getLsbD 1 else if k = 19 then vres
      else if k = 20 then pal else if k = 21 then d24 else if k = 22 then il else if k = 16 then h2
      else if k = 14 then rev else g.status.getLsbD k := by
  dsimp only [Gpu.afterCommand]
  simp only [getLsbD_putField_bit _ _ _ hk, getLsbD_putField_two _ _ _ hk]
  grind

/-- Settles O58: the word, and the model's soft reset field by field. -/
theorem gp1SoftReset : Obligations.Gp1SoftReset :=
  ⟨fun _ ws h => decode_gp1_of_op (j := .gp1SoftReset) rfl (by decide) h ws, fun _ => setsGpu_of_gp1 rfl rfl⟩

/-- Settles O59: the seven words, and what their commands do, whatever the port is buffering. -/
theorem gp1Commands : Obligations.Gp1Commands := by
  refine ⟨fun w ws h => decode_gp1_of_op (j := .gp1InterruptAcknowledge) rfl (by decide) h ws,
    fun w ws h => decode_gp1_of_op (j := .gp1DisplayEnable false) rfl (by decide) h ws,
    fun w ws h => decode_gp1_of_op (j := .gp1DmaDirection 0) rfl (by decide) h ws,
    fun w ws h => decode_gp1_of_op (j := .gp1DisplayOrigin 0 0) rfl (by decide) h ws,
    fun w ws h => decode_gp1_of_op (j := .gp1HorizontalRange 0 0) rfl (by decide) h ws,
    fun w ws h => decode_gp1_of_op (j := .gp1VerticalRange 0 0) rfl (by decide) h ws,
    fun w ws h => decode_gp1_of_op (j := .gp1DisplayMode 0 false false false false false false) rfl (by decide) h ws,
    fun s => ⟨?acknowledge, fun off => ?displayEnable, fun d => ?dmaDirection, fun x y => ?displayOrigin,
      fun a b => ?horizontalRange, fun a b => ?verticalRange, fun h1 vres pal d24 il h2 rev => ?displayMode⟩⟩
  case displayOrigin | horizontalRange | verticalRange => exact setsGpu_of_gp1 rfl rfl
  case acknowledge | displayEnable => exact setsGpu_of_gp1 rfl ⟨rfl, fun k hk => getLsbD_putField_bit _ _ _ hk⟩
  case dmaDirection => exact setsGpu_of_gp1 rfl ⟨rfl, fun k hk => getLsbD_putField_two _ 29 d hk⟩
  case displayMode =>
    exact setsGpu_of_gp1 rfl ⟨rfl, fun k hk => getLsbD_displayMode_status s.cfg s.gpu h1 vres pal d24 il h2 rev hk⟩

end Sys2Proof.Machine
end

section
/-!
SUPPORT. One cycle, outcome by outcome, O8 (R410).
-/

namespace Sys2Proof.Machine

/-- A step that fetches and decodes `i` is `exec i` after the prologue, then the epilogue. -/
theorem step_of_decode {s : State} {w : Word} {i : Instr} (hrun : s.halted = none) (hfetch : s.fetch = .ok w)
    (hdecode : decodeCpu w = .ok i) :
    step s = Result.andThen (exec i s.prologue) fun t => .next t.epilogue := by
  simp only [step, hrun, State.cycle, hfetch, State.runWord, hdecode]

theorem decodeCpu_error_eq {w : Word} {e : DecodeError} (h : decodeCpu w = .error e) : e = .unknownInstruction w := by
  rcases decodeCpu_eq_ok_or_unknown w with ⟨i, hi⟩ | hunknown
  · cases hi.symm.trans h
  · cases hunknown.symm.trans h
    rfl

/-- `step_of_decode_error` for an error known only as one: the CPU's decoder has no other. -/
theorem step_of_undecodable {s : State} {w : Word} {e : DecodeError} (hrun : s.halted = none)
    (hfetch : s.fetch = .ok w) (h : decodeCpu w = .error e) :
    step s = stopped s.prologue (.unknownInstruction s.currentPc w) :=
  step_of_decode_error hrun hfetch (decodeCpu_error_eq h ▸ h)

theorem step_of_halted {s : State} {r : FatalReason} (h : s.halted = some r) : step s = .refused (.halted r) := by
  simp only [step, h]

/-- Settles O8: the fetch, the decoding and the instruction each decide how the cycle ends. -/
theorem stepRunsDecodedInstruction : Obligations.StepRunsDecodedInstruction := by
  intro s
  refine ⟨fun w i t hrun hfetch hdecode h => ?next, fun w i e hrun hfetch hdecode h => ?fault,
    fun w i e hrun hfetch hdecode h => ?refused, fun r => step_of_fetch_error, fun w e => step_of_undecodable,
    fun r => step_of_halted⟩
  case next | fault | refused =>
    rw [step_of_decode hrun hfetch hdecode, State.prologue, h]
    rfl

end Sys2Proof.Machine
end

section
/-!
SUPPORT. Refusals: a machine that has not halted refuses only a GP0 word, in a buffering state that R60 excludes; so
from a state with the invariant no step is refused, O11 (R412, R376).
-/

namespace Sys2Proof.Machine

/-- The operation has a next state or the spec's own stop. -/
def Result.HasMeaning (r : Result) : Prop := ∀ e : Refusal, r ≠ .refused e

theorem Result.hasMeaning_next (s : State) : Result.HasMeaning (.next s) := nofun

theorem Result.hasMeaning_fault (e : Fault) : Result.HasMeaning (.fault e) := nofun

theorem State.hasMeaning_stop (s : State) (r : FatalReason) : (s.stop r).HasMeaning := Result.hasMeaning_fault _

/-- A sequence has a meaning when its first part has, and its second wherever the first goes on. -/
theorem Result.HasMeaning.andThen {r : Result} {f : State → Result} (hr : r.HasMeaning)
    (hf : ∀ t, r = .next t → (f t).HasMeaning) : (r.andThen f).HasMeaning := by
  cases r with
  | next t => exact hf t rfl
  | fault e => exact Result.hasMeaning_fault e
  | refused e => exact absurd rfl (hr e)

/-! ## The two ports -/

theorem State.hasMeaning_afterGpu (s : State) {r : GpuResult} (hr : ∀ e, r ≠ .refused e) :
    (s.afterGpu r).HasMeaning := by
  cases r with
  | next g => exact Result.hasMeaning_next _
  | fault e => exact s.hasMeaning_stop e
  | refused e => exact absurd rfl (hr e)

theorem State.hasMeaning_gp0 {s : State} (hs : s.gpu.BufferingInv) (w : Word) : (s.gp0 w).HasMeaning :=
  s.hasMeaning_afterGpu (Gpu.gp0_not_refused hs)

/-- No GP1 word is refused, whatever the port is buffering (R390). -/
theorem State.hasMeaning_gp1 (s : State) (w : Word) : (s.gp1 w).HasMeaning :=
  s.hasMeaning_afterGpu fun e h => by
    unfold Gpu.gp1 at h
    split at h <;> cases h

theorem State.bufferingInv_gp0 (s : State) (w : Word) (t : State) (hs : s.gpu.BufferingInv) (h : s.gp0 w = .next t) :
    t.gpu.BufferingInv := by
  obtain ⟨g, hg, rfl⟩ := State.gp0_eq_next.1 h
  exact Gpu.bufferingInv_gp0 hs hg

theorem State.hasMeaning_gp0Stream {s : State} (hs : s.gpu.BufferingInv) (ws : List Word) :
    (s.gp0Stream ws).HasMeaning := by
  induction ws generalizing s with
  | nil => exact Result.hasMeaning_next s
  | cons w ws ih =>
    rw [State.gp0Stream_cons]
    exact (State.hasMeaning_gp0 hs w).andThen fun t h => ih (s.bufferingInv_gp0 w t hs h)

/-! ## Transfers (R309) -/

theorem hasMeaning_dmaUnit (n : ChannelId) (c : Word) (rem : Nat) (addr : Word) {s : State} (hs : s.gpu.BufferingInv) :
    (dmaUnit n c rem addr s).HasMeaning := by
  unfold dmaUnit
  dsimp only
  split
  · exact Result.hasMeaning_next _
  · split
    · exact State.hasMeaning_gp0 hs _
    · exact s.hasMeaning_stop _

/-- A unit stores a word or hands one to the GPU; either keeps R60. -/
theorem dmaUnit_bufferingInv {n : ChannelId} {c : Word} {rem : Nat} {addr : Word} {s t : State}
    (hs : s.gpu.BufferingInv) (h : dmaUnit n c rem addr s = .next t) : t.gpu.BufferingInv := by
  rcases dmaUnit_eq_next.1 h with ⟨-, -, rfl⟩ | ⟨-, -, h⟩
  · exact hs
  · exact s.bufferingInv_gp0 _ t hs h

theorem hasMeaning_dmaBlock (n : ChannelId) (c : Word) (k : Nat) (addr : Word) {s : State} (hs : s.gpu.BufferingInv) :
    (dmaBlock n c k addr s).HasMeaning := by
  induction k generalizing addr s with
  | zero => exact Result.hasMeaning_next s
  | succ k ih =>
    rw [dmaBlock_succ]
    exact (hasMeaning_dmaUnit n c _ addr hs).andThen fun t h => ih _ (dmaUnit_bufferingInv hs h)

theorem hasMeaning_dmaForward (k : Nat) (addr : Word) {s : State} (hs : s.gpu.BufferingInv) :
    (dmaForward k addr s).HasMeaning := by
  induction k generalizing addr s with
  | zero => exact Result.hasMeaning_next s
  | succ k ih =>
    rw [dmaForward_succ]
    exact (State.hasMeaning_gp0 hs _).andThen fun t h => ih _ (s.bufferingInv_gp0 _ t hs h)

/-- A walk that reaches the sentinel completes; one that does not is R321's endless list, a stop. -/
theorem hasMeaning_dmaListFrom (n : ChannelId) (k : Nat) (addr : Word) {s : State} (hs : s.gpu.BufferingInv) :
    (dmaListFrom n k addr s).HasMeaning := by
  induction k generalizing addr s with
  | zero => exact Result.hasMeaning_fault _
  | succ k ih =>
    rw [dmaListFrom_succ]
    refine (hasMeaning_dmaForward _ addr hs).andThen fun t h => ?_
    split
    · exact Result.hasMeaning_next t
    · exact ih _ (dmaForward_keeps State.bufferingInv_gp0 hs h)

theorem hasMeaning_dmaRun (n : ChannelId) {s : State} (hs : s.gpu.BufferingInv) : (dmaRun n s).HasMeaning := by
  unfold dmaRun
  dsimp only
  split
  · exact hasMeaning_dmaBlock n _ _ _ hs
  · exact hasMeaning_dmaBlock n _ _ _ hs
  · split
    · exact s.hasMeaning_stop _
    · exact hasMeaning_dmaListFrom n _ _ hs
  · exact s.hasMeaning_stop _

theorem hasMeaning_chcrWrite (n : ChannelId) (v : Word) {s : State} (hs : s.gpu.BufferingInv) :
    (chcrWrite n v s).HasMeaning := by
  unfold chcrWrite
  dsimp only
  split
  · have hrun : (dmaRun n (s.setChcr n v)).HasMeaning := hasMeaning_dmaRun n hs
    exact hrun.andThen fun t _ => Result.hasMeaning_next _
  · exact Result.hasMeaning_next _

/-! ## Stores and loads (R81, R250) -/

theorem State.hasMeaning_devRegWrite {s : State} (hs : s.gpu.BufferingInv) (r : DevReg) (v : Word) :
    (s.devRegWrite r v).HasMeaning := by
  cases r with
  | chcr n => exact hasMeaning_chcrWrite n v hs
  | gpuPort0 => exact State.hasMeaning_gp0 hs v
  | gpuPort1 => exact s.hasMeaning_gp1 v
  | madr | bcr | dpcr | dicr => exact Result.hasMeaning_next _

theorem State.hasMeaning_devWrite {s : State} (hs : s.gpu.BufferingInv) (p : Word) (n : Width) (v : Word) :
    (s.devWrite p n v).HasMeaning := by
  unfold State.devWrite
  split
  · split
    · exact State.hasMeaning_devRegWrite hs _ v
    · exact s.hasMeaning_stop _
  · exact Result.hasMeaning_next _

theorem State.hasMeaning_memWrite {s : State} (hs : s.gpu.BufferingInv) (a : Word) (n : Width) (v : Word) :
    (s.memWrite a n v).HasMeaning := by
  unfold State.memWrite
  split
  · exact s.hasMeaning_stop _
  · dsimp only
    split
    case h_4 => exact State.hasMeaning_devWrite hs _ n v
    case h_1 | h_2 | h_3 => exact Result.hasMeaning_next _
    case h_5 | h_6 => exact s.hasMeaning_stop _

theorem State.hasMeaning_loadFrom (s : State) (rt : Reg) (a : Word) (n : Width) (f : Word → Word) :
    (s.loadFrom rt a n f).HasMeaning := by
  unfold State.loadFrom
  split
  · exact Result.hasMeaning_next _
  · split
    · exact Result.hasMeaning_next _
    · exact s.hasMeaning_stop _

theorem State.hasMeaning_storeTo {s : State} (hs : s.gpu.BufferingInv) (a : Word) (n : Width) (v : Word) :
    (s.storeTo a n v).HasMeaning := by
  unfold State.storeTo
  split
  · exact Result.hasMeaning_next _
  · exact State.hasMeaning_memWrite hs a n v

theorem State.hasMeaning_mergeTo {s : State} (hs : s.gpu.BufferingInv) (a : Word) (f : Word → Word) :
    (s.mergeTo a f).HasMeaning := by
  unfold State.mergeTo
  split
  · exact Result.hasMeaning_next _
  · split
    · exact State.hasMeaning_memWrite hs a .word _
    · exact s.hasMeaning_stop _

/-! ## Exceptions, control transfers and coprocessor 0 -/

theorem State.hasMeaning_raise (s : State) (c : BitVec 5) : (s.raise c).HasMeaning := by
  unfold State.raise
  split
  · exact s.hasMeaning_stop _
  · exact Result.hasMeaning_next _

theorem State.hasMeaning_overflowTrap (s : State) : s.overflowTrap.HasMeaning := by
  unfold State.overflowTrap
  split
  · exact s.hasMeaning_raise codeOv
  · exact s.hasMeaning_stop _

theorem State.hasMeaning_writeThenTrap (s : State) (rd : Reg) (r : Word) (ov : Bool) :
    (s.writeThenTrap rd r ov).HasMeaning := by
  unfold State.writeThenTrap
  split
  · exact State.hasMeaning_overflowTrap _
  · exact Result.hasMeaning_next _

theorem State.hasMeaning_branchEntry (s : State) (body : State → State) : (s.branchEntry body).HasMeaning := by
  unfold State.branchEntry
  split
  · exact s.hasMeaning_stop _
  · exact Result.hasMeaning_next _

theorem hasMeaning_execMfc0 (rt rd : Reg) (s : State) : (execMfc0 rt rd s).HasMeaning := by
  unfold execMfc0
  split
  · exact Result.hasMeaning_next _
  · exact s.hasMeaning_stop _

theorem State.hasMeaning_causeWrite (s : State) (v : Word) : (s.causeWrite v).HasMeaning := by
  unfold State.causeWrite
  split
  · exact s.hasMeaning_stop _
  · split <;> exact Result.hasMeaning_next _

theorem hasMeaning_execMtc0 (rt rd : Reg) (s : State) : (execMtc0 rt rd s).HasMeaning := by
  unfold execMtc0
  split
  · next r _ =>
    cases r with
    | cause => exact s.hasMeaning_causeWrite _
    | sr | epc => exact Result.hasMeaning_next _
  · exact s.hasMeaning_stop _

/-! ## Every instruction, every step -/

theorem hasMeaning_exec_transfer {i : Instr} (hi : i.isTransfer = true) (s : State) : Result.HasMeaning (exec i s) := by
  obtain ⟨body, -, hexec⟩ := exec_eq_branchEntry hi
  rw [hexec]
  exact s.hasMeaning_branchEntry body

/-- An instruction of the CPU: stores alone reach the port, so they alone need R60. -/
theorem hasMeaning_exec_cpu {i : Instr} (hi : i.space = .cpu) {s : State} (hs : s.gpu.BufferingInv) :
    Result.HasMeaning (exec i s) := by
  cases i
  case addi | add | sub => exact s.hasMeaning_writeThenTrap _ _ _
  case addu | subu | and | or | xor | nor | slt | sltu | sll | srl | sra | sllv | srlv | srav | addiu | slti | sltiu
    | andi | ori | xori | lui | mult | multu | div | divu | mfhi | mthi | mflo | mtlo | rfe =>
    exact Result.hasMeaning_next _
  case j | jal | jr | jalr | beq | bne | blez | bgtz | bltz | bgez | bltzal | bgezal =>
    exact hasMeaning_exec_transfer rfl s
  case lb | lbu | lh | lhu | lw | lwl | lwr => exact s.hasMeaning_loadFrom _ _ _ _
  case sb | sh | sw => exact State.hasMeaning_storeTo hs _ _ _
  case swl | swr => exact State.hasMeaning_mergeTo hs _ _
  case syscall | brk => exact s.hasMeaning_raise _
  case mfc0 => exact hasMeaning_execMfc0 _ _ s
  case mtc0 => exact hasMeaning_execMtc0 _ _ s
  all_goals cases hi

/-- Under R60 every instruction has a meaning, GPU commands included. -/
theorem hasMeaning_exec (i : Instr) {s : State} (hs : s.gpu.BufferingInv) : Result.HasMeaning (exec i s) := by
  cases hspace : i.space with
  | cpu => exact hasMeaning_exec_cpu hspace hs
  | gp0 =>
    rw [exec_gp0 hspace]
    exact State.hasMeaning_gp0Stream hs _
  | gp1 =>
    rw [exec_gp1_word hspace]
    exact Result.hasMeaning_next _

/-- Settles O11: the prologue leaves the GPU as it is, so the instruction meets R60 and has a meaning. -/
theorem invariantStepIsNeverRefused : Obligations.InvariantStepIsNeverRefused := by
  rintro s ⟨-, hrun, -, -, -, hbuffering, -, -⟩
  change Result.HasMeaning (step s)
  cases hfetch : s.fetch with
  | error r =>
    rw [step_of_fetch_error hrun hfetch]
    exact Result.hasMeaning_fault _
  | ok w =>
    cases hdecode : decodeCpu w with
    | error e =>
      rw [step_of_undecodable hrun hfetch hdecode]
      exact Result.hasMeaning_fault _
    | ok i =>
      rw [step_of_decode hrun hfetch hdecode]
      have hexec : Result.HasMeaning (exec i s.prologue) := hasMeaning_exec i hbuffering
      exact hexec.andThen fun t _ => Result.hasMeaning_next _

end Sys2Proof.Machine
end

section
/-!
SUPPORT. What the host may do between steps (R447), O60: the copy into main memory byte by byte, and the frame.
-/

namespace Sys2Proof.Machine

/-! ## The copy -/

/-- The offset of byte `i + 1` of a copy is that of byte `i` of the copy one address further. -/
theorem copyOffset_succ (dest : Word) (i : Nat) :
    ((dest + 1).toNat + i) % 0x200000 = (dest.toNat + (i + 1)) % 0x200000 := by
  rw [BitVec.toNat_add, show (1 : Word).toNat = 1 from rfl]
  omega

/-- A copy touches no offset but its own. -/
theorem read_copyToRam_other {m : Memory} {dest : Word} {bytes : List Byte} {o : Nat}
    (h : ∀ i, i < bytes.length → o ≠ (dest.toNat + i) % 0x200000) : (copyToRam m dest bytes).read o = m.read o := by
  induction bytes generalizing m dest with
  | nil => rfl
  | cons b bs ih =>
    have hfirst : o ≠ ramOffset dest := ramOffset_eq dest ▸ h 0 (Nat.succ_pos _)
    have hrest : ∀ i, i < bs.length → o ≠ ((dest + 1).toNat + i) % 0x200000 := fun i hi =>
      copyOffset_succ dest i ▸ h (i + 1) (Nat.succ_lt_succ hi)
    exact (ih hrest).trans (Memory.read_write_other m _ _ b hfirst)

/-- Each byte of a copy that fits into main memory is read back: no later byte wraps around onto it. -/
theorem read_copyToRam {m : Memory} (hm : m.wf) {dest : Word} {bytes : List Byte} (hlen : bytes.length ≤ 0x200000)
    (i : Nat) (hi : i < bytes.length) :
    (copyToRam m dest bytes).read ((dest.toNat + i) % 0x200000) = bytes[i] := by
  induction bytes generalizing m dest i with
  | nil => cases hi
  | cons b bs ih =>
    rw [List.length_cons] at hlen
    cases i with
    | zero =>
      have hlater : ∀ j, j < bs.length → ramOffset dest ≠ ((dest + 1).toNat + j) % 0x200000 := fun j hj => by
        rw [ramOffset_eq, copyOffset_succ]
        omega
      rw [Nat.add_zero, ← ramOffset_eq]
      calc (copyToRam m dest (b :: bs)).read (ramOffset dest)
          = (m.write (ramOffset dest) b).read (ramOffset dest) := read_copyToRam_other hlater
        _ = b := Memory.read_write_self m hm _ b
    | succ i =>
      rw [← copyOffset_succ]
      exact ih (Memory.wf_write hm _ b) (Nat.le_of_succ_le hlen) i (Nat.lt_of_succ_lt_succ hi)

/-! ## Sideloading -/

/-- A register read after sideloading: the three registers it sets, and the others as they were. -/
theorem State.reg_hostSideload (s : State) (entry gp sp dest : Word) (bytes : List Byte) (r : Reg) :
    (s.hostSideload entry gp sp dest bytes).reg r =
      if r = 30 then sp else if r = 29 then sp else if r = 28 then gp else s.reg r := by
  have hregs : (s.hostSideload entry gp sp dest bytes).reg r =
      ((((s.hostPreset dest bytes).setReg 28 gp).setReg 29 sp).setReg 30 sp).reg r := rfl
  simp [hregs, written]

theorem State.hostSideload_ram (s : State) (entry gp sp dest : Word) (bytes : List Byte) :
    (s.hostSideload entry gp sp dest bytes).ram = copyToRam s.ram dest bytes := by
  simp [State.hostSideload]

/-- Settles O60: the copy is read back byte by byte, and everything else is a field the sideload sets or leaves. -/
theorem hostSideload : Obligations.HostSideload := by
  intro s entry gp sp dest bytes hwf hlen
  have hram := s.hostSideload_ram entry gp sp dest bytes
  have hreg := s.reg_hostSideload entry gp sp dest bytes
  refine ⟨fun i hi => ?_, fun o ho => ?_, rfl, rfl, rfl, rfl, hreg 28, hreg 29, hreg 30,
    fun r h28 h29 h30 => ?_, ?_, ?_⟩
  · rw [hram]
    exact read_copyToRam hwf hlen i hi
  · rw [hram]
    exact read_copyToRam_other ho
  · rw [hreg, if_neg h30, if_neg h29, if_neg h28]
  · simp [State.hostSideload]
  · rw [hram]
    rfl

end Sys2Proof.Machine
end
